-- ==== Sys2Proof/Word.lean ====
section
/-! DEFINITION. The word types of the block (00_scope.md R8, R10): every value is an unsigned bit vector. -/

namespace Sys2Proof

/-- One byte of a backing store. -/
abbrev Byte := BitVec 8

/-- "Word" means 32 bits (00_scope.md R10): a register, an address, a FIFO element. -/
abbrev Word := BitVec 32

end Sys2Proof
end

