-- ==== Sys2Proof/Syntax.lean ====
section
/-! DEFINITION. The commands of the block: one constructor of `Instr` per row of spec/opcode_table.json
(30_encoding.md R140, R141), and the forms in which a command arrives at the port. -/

namespace Sys2Proof

/-- The two domains, and also the two sides of the SIF: P is primary, S is secondary (00_scope.md R9). -/
inductive Domain where
  | P
  | S
deriving DecidableEq, Repr

/-- The four backing stores (10_state.md R35). -/
inductive Store where
  | mainRam
  | iopRam
  | bootRom
  | scratch
deriving DecidableEq, Repr

/-- The access widths that a register access or a handler receives (41_dma_registers.md R240). -/
inductive Width where
  | w8
  | w16
  | w32
  | w64
deriving DecidableEq, Repr

/-- The width in bytes. -/
def Width.bytes : Width → Nat
  | .w8 => 1
  | .w16 => 2
  | .w32 => 4
  | .w64 => 8

/-- The width in bits. -/
def Width.bits : Width → Nat
  | .w8 => 8
  | .w16 => 16
  | .w32 => 32
  | .w64 => 64

/-- The six handshake registers of the SIF (10_state.md R56). -/
inductive SifReg where
  | mscom
  | smcom
  | msflag
  | smflag
  | ctrl
  | bd6
deriving DecidableEq, Repr

/-- A handler identity (30_encoding.md R141): the DMA controller, the SIF, or one of the opaque
collaborators, told apart by a number (40_address_space.md R205). -/
inductive Handler where
  | dma
  | sif
  | device (id : Nat)
deriving DecidableEq, Repr

/-- The six controller-level registers of the DMA controller (30_encoding.md R121). -/
inductive CtrlReg where
  | dpcr
  | dicr
  | dpcr2
  | dicr2
  | dmacen
  | dmacinten
deriving DecidableEq, Repr

/-- The registers of one channel, BCR's upper half counted apart (30_encoding.md R125). -/
inductive ChanReg where
  | madr
  | bcr
  | bcrCount
  | chcr
  | tadr
deriving DecidableEq, Repr

/-- The commands. A `vend` or `hi` is a natural number because it may be 2^32 (30_encoding.md R141).
A channel register row names its register by the raw slot, bits [7:4] of the address. -/
inductive Instr where
  -- address space (40_address_space.md)
  | registerRegion (d : Domain) (vstart : Word) (vend : Nat) (mask : Word) (store : Store)
  | registerReadHandler (d : Domain) (lo : Word) (hi : Nat) (h : Handler)
  | registerWriteHandler (d : Domain) (lo : Word) (hi : Nat) (h : Handler)
  | readByte (d : Domain) (va : Word)
  | readHalf (d : Domain) (va : Word)
  | readWord (d : Domain) (va : Word)
  | readDouble (d : Domain) (va : Word)
  | readQuad (d : Domain) (va : Word)
  | writeByte (d : Domain) (va : Word) (v : BitVec 8)
  | writeHalf (d : Domain) (va : Word) (v : BitVec 16)
  | writeWord (d : Domain) (va : Word) (v : BitVec 32)
  | writeDouble (d : Domain) (va : Word) (v : BitVec 64)
  | writeQuad (d : Domain) (va : Word) (v : BitVec 128)
  | translateVirtualAddress (d : Domain) (va : Word)
  | validCodeRegion (d : Domain) (va : Word)
  -- DMA controller (41_dma_registers.md, 42_dma_transfer.md, 70_reset_and_hazards.md)
  | dmaReset
  | dmaRun (cycles : Nat)
  | dmaReadRegister (w : Width) (a : Word)
  | dmaWriteRegister (w : Width) (a : Word) (data : BitVec 64)
  -- SIF (43_sif.md)
  | writeSide0Fifo (w : Word)
  | writeSide1FifoWord (w : Word)
  | writeSide1FifoWide (v : BitVec 64)
  | readSide0Fifo
  | readSide1Fifo
  | getSide0FifoSize
  | getSide1FifoSize
  | sifReadRegister (side : Domain) (reg : SifReg)
  | sifWriteMscom (side : Domain) (v : Word)
  | sifWriteSmcom (side : Domain) (v : Word)
  | sifWriteMsflag (side : Domain) (v : Word)
  | sifWriteSmflag (side : Domain) (v : Word)
  | sifWriteCtrl (side : Domain) (v : Word)
  | sifWriteBd6 (side : Domain) (v : Word)
  -- controller register accesses on domain S (41_dma_registers.md R260 to R272)
  | ldDpcr
  | stDpcr (v : Word)
  | ldDicr
  | stDicr (v : Word)
  | ldDpcr2
  | stDpcr2 (v : Word)
  | ldDicr2
  | stDicr2 (v : Word)
  | ldDmacen
  | stDmacen (v : Word)
  | ldDmacinten
  | stDmacinten (v : Word)
  -- channel register accesses on domain S (41_dma_registers.md R241 to R250)
  | ldMadr (slot : BitVec 4)
  | stMadr (slot : BitVec 4) (v : Word)
  | ldBcr (slot : BitVec 4)
  | stBcr (slot : BitVec 4) (v : Word)
  | ldBcrCount (slot : BitVec 4)
  | stBcrCount (slot : BitVec 4) (v : BitVec 16)
  | ldChcr (slot : BitVec 4)
  | stChcr (slot : BitVec 4) (v : Word)
  | ldTadr (slot : BitVec 4)
  | stTadr (slot : BitVec 4) (v : Word)
  -- SIF register accesses on domain P (43_sif.md R359 to R366)
  | ldMscomP
  | stMscomP (v : Word)
  | ldSmcomP
  | stSmcomP (v : Word)
  | ldMsflagP
  | stMsflagP (v : Word)
  | ldSmflagP
  | stSmflagP (v : Word)
  | ldCtrlP
  | stCtrlP (v : Word)
  | ldBd6P
  | stBd6P (v : Word)
  -- SIF register accesses on domain S (43_sif.md R359 to R366)
  | ldMscomS
  | stMscomS (v : Word)
  | ldSmcomS
  | stSmcomS (v : Word)
  | ldMsflagS
  | stMsflagS (v : Word)
  | ldSmflagS
  | stSmflagS (v : Word)
  | ldCtrlS
  | stCtrlS (v : Word)
  | ldBd6S
  | stBd6S (v : Word)
deriving DecidableEq, Repr

/-- The three formats of spec/opcode_table.json: a selector with operands, an access at a full register
address, an access at a channel register named by address bits [7:0]. -/
inductive Form where
  | command
  | mmio32
  | mmioChannel
deriving DecidableEq, Repr

/-- One command as it stands at the port: its format and its bytes, little-endian.
DESIGN CHOICE (log 2): the spec packs no operands. Safe: any tuple has exactly one such item. -/
structure PortItem where
  form : Form
  bytes : List Byte
deriving DecidableEq, Repr

end Sys2Proof
end

