-- ==== Sys2Proof/Config.lean ====
section
/-! DEFINITION. What an implementation fixes (00_scope.md R7) and the free values (93_implementation_defined.md
I13 to I15). The register addresses of R121, R125 and R150 stand in Decode.lean. -/

namespace Sys2Proof.Config

/-- `N_CH`: the logical channels (00_scope.md R7). -/
def numChannels : Nat := 13

/-- `PAGE_SIZE` (00_scope.md R7, D4). -/
def pageSize : Nat := 4096

/-- `DPCR_RESET` (00_scope.md R7, D18). -/
def dpcrReset : Word := 0x07654321

/-- `DPCR2_RESET` (00_scope.md R7, D18). -/
def dpcr2Reset : Word := 0x07654321

/-- The size in bytes of each store (20_memory.md R100). -/
def storeSize : Store → Nat
  | .mainRam => 0x2000000
  | .iopRam => 0x200000
  | .bootRom => 0x400000
  | .scratch => 0x4000

/-- FREE VALUE (log 6, log 7): what the byte at an offset of a store holds before anything has written
it. "A store's contents at power-on are unspecified (any value...)" (10_state.md R35); for the boot ROM it
is the loaded image. Safe: nothing is known of it. -/
opaque powerOnByte : Store → Nat → Byte

/-- FREE VALUE (log 8): what the n-th read from an opaque handler returns, cut to the access width: "an
unconstrained value of the access width, a free input of the step" (40_address_space.md R205). Safe. -/
opaque handlerDraw : Nat → BitVec 64

end Sys2Proof.Config
end

