-- ==== Sys2Proof/Machine/State.lean ====
section
/-! DEFINITION. The state of the block (10_state.md R30), its outcomes, and the state after power-on
(70_reset_and_hazards.md R452). -/

namespace Sys2Proof.Machine

/-- A fault outcome of a step. There is none: the spec's `raise Fatal` and `raise Refuse` record FAULT and leave
a state in which later commands do nothing (60_exceptions.md R400), so each is a next state (log 4). Nothing
raises a `Fault`. -/
inductive Fault where
deriving DecidableEq, Repr

/-- Why a step has no meaning. -/
inductive Refusal where
  /-- Raised by `exec` for an instruction with no meaning yet. Safe. -/
  | notModelled (mnemonic : String)
  /-- Raised by `step` for bytes at the port that spell no command tuple of 30_encoding.md R140 and R141 although
  their selector is assigned, or that name no register (log 16). Safe: the spec has no such command. -/
  | malformedItem
deriving DecidableEq, Repr

/-! ### Address space (10_state.md R33 to R36) -/

/-- Page permission (20_memory.md R102). -/
inductive Perm where
  | rw
  | ro
deriving DecidableEq, Repr

/-- A page-table entry `Some(store, off, perm)` (10_state.md R33). -/
structure PageEntry where
  store : Store
  off : Nat
  perm : Perm
deriving DecidableEq, Repr

/-- The page-table entries written by one `RegisterRegion` (40_address_space.md R200): every page `p` of
`[vstart, vend)` has the entry `(store, p & mask, perm(store))`. The page table is the list of these, newest
first, read through `AddrSpace.pageEntry` (log 9). -/
structure Region where
  vstart : Nat
  vend : Nat
  mask : Word
  store : Store
deriving DecidableEq, Repr

/-- A handler window `([lo, hi), h)` (10_state.md R34). -/
structure Window where
  lo : Nat
  hi : Nat
  handler : Handler
deriving DecidableEq, Repr

/-- One domain's address space. -/
structure AddrSpace where
  regions : List Region
  readHandlers : List Window
  writeHandlers : List Window
deriving DecidableEq, Repr

/-- The written bytes of a store: offset and byte, offsets strictly rising. An offset that is not listed holds
the free value `Config.powerOnByte` (log 6). -/
abbrev Memory := List Host.Cell

/-- The backing stores (10_state.md R35), one copy of each, shared by both domains. -/
structure Stores where
  mainRam : Memory
  iopRam : Memory
  bootRom : Memory
  scratch : Memory
deriving DecidableEq, Repr

/-! ### DMA controller (10_state.md R40 to R49) -/

/-- The six fields of a channel (10_state.md R40). -/
structure Channel where
  base : Word
  size : BitVec 16
  count : BitVec 16
  control : Word
  tag : Word
  endTransfer : Bool
deriving DecidableEq, Repr

/-- One half of the interrupt latch (10_state.md R47). `master_flag` is computed from these (R49). -/
structure Latch where
  low : BitVec 24
  flags : BitVec 7
deriving DecidableEq, Repr

/-- Which half of the controller a register or channel belongs to (10_state.md R45, R47). -/
inductive Half where
  | h0
  | h1
deriving DecidableEq, Repr

/-! ### SIF (10_state.md R55, R56) -/

/-- Which FIFO: 0 carries words from S to P, 1 from P to S (10_state.md R55). -/
inductive FifoSide where
  | side0
  | side1
deriving DecidableEq, Repr

/-- The two FIFOs, head first, and the six handshake registers. -/
structure Sif where
  fifo0 : List Word
  fifo1 : List Word
  mscom : Word
  smcom : Word
  msflag : Word
  smflag : Word
  ctrl : Word
  bd6 : Word
deriving DecidableEq, Repr

/-! ### Fault record (10_state.md R60, 60_exceptions.md R401) -/

/-- `kind` of a fault record. -/
inductive FaultKind where
  | fatal
  | refused
deriving DecidableEq, Repr

/-- The access that was misaligned: the `op` recorded with MISALIGNED. -/
inductive AccessOp where
  | read
  | write
  | quad
deriving DecidableEq, Repr

/-- Why a command raised: one constructor per code of 60_exceptions.md R401 with the info that table records
(two shapes for CONFIG, after 40_address_space.md R200). -/
inductive Cause where
  | channelIndex (a : Word)
  | registerDecode (a : Word) (width : Width)
  | fifoUnderflow (side : FifoSide)
  | unmodelledChannel (c : Fin 13)
  | misaligned (op : AccessOp) (d : Domain) (bytes : Nat) (va : Word)
  | quadSecondary (va : Word)
  | configWindow (d : Domain) (lo hi : Nat)
  | configPage (d : Domain) (p : Nat)
  | registerWidth (a : Word) (width : Width)
  | fifoOverflow (side : FifoSide)
  | unknownCommand (sel : Nat)
deriving DecidableEq, Repr

/-- A command with its operands, as FAULT records it (10_state.md R60). An unassigned selector has no command of
30_encoding.md R140, so there its item stands (log 4). -/
inductive Issued where
  | command (i : Instr)
  | unassigned (item : PortItem)
deriving DecidableEq, Repr

/-- The content of FAULT (10_state.md R60): `kind` and `code` are `Cause.kind` and `Cause.code` of the cause, and
`info` is the cause's own data (60_exceptions.md R401) with the command and its operands. -/
structure FaultRecord where
  cause : Cause
  command : Issued
deriving DecidableEq, Repr

/-! ### Outputs (10_state.md R65) -/

/-- The kind of access a `Diag` event reports. -/
inductive DiagOp where
  | read
  | write
  | writeRO
deriving DecidableEq, Repr

/-- The events of 10_state.md R65. A `diag` width is in bytes; a handler's width is the access width it receives
(40_address_space.md R205; log 12). -/
inductive Event where
  | irqRequest
  | audioNotify (c : Fin 13)
  | diag (op : DiagOp) (d : Domain) (bytes : Nat) (addr : Word) (data : Option (BitVec 64))
  | handlerRead (d : Domain) (h : Handler) (width : Width) (addr : Word)
  | handlerWrite (d : Domain) (h : Handler) (width : Width) (addr : Word) (data : BitVec 64)
deriving DecidableEq, Repr

/-- What the last command returned to its caller (log 5). -/
inductive Result where
  | none
  | byte (v : BitVec 8)
  | half (v : BitVec 16)
  | word (v : BitVec 32)
  | double (v : BitVec 64)
  | quad (v : BitVec 128)
  | bool (b : Bool)
  | size (n : Nat)
deriving DecidableEq, Repr

/-! ### Parameters (10_state.md R66) -/

/-- The kinds of channel (42_dma_transfer.md R301). -/
inductive Kind where
  | streaming
  | outbound
  | inbound
  | unimplemented
deriving DecidableEq, Repr

/-- The parameters a model takes as arguments, fixed before the first command (log 14): `FIFO_DEPTH`, where
`none` is unbounded, and `KIND`. No command writes them. -/
structure Params where
  fifoDepth : Option Nat
  kinds : Vector Kind 13
deriving DecidableEq, Repr

/-! ### The whole state -/

/-- The state (10_state.md R30). The last four fields are not the spec's: its parameters, and the model's own
counter of free values, returned value and command port (INVENTORY.md). -/
structure State where
  asP : AddrSpace
  asS : AddrSpace
  stores : Stores
  ch : Vector Channel 13
  dpcr0 : Word
  dpcr1 : Word
  latch0 : Latch
  latch1 : Latch
  dmacen : Word
  dmacinten : Word
  sif : Sif
  fault : Option FaultRecord
  out : List Event
  params : Params
  draws : Nat
  result : Result
  port : List PortItem
deriving DecidableEq, Repr

/-- A channel after `Reset` (70_reset_and_hazards.md R450). -/
def Channel.zero : Channel :=
  { base := 0, size := 0, count := 0, control := 0, tag := 0, endTransfer := false }

/-- A latch half after `Reset` (70_reset_and_hazards.md R450). -/
def Latch.zero : Latch := { low := 0, flags := 0 }

/-- An address space with nothing registered (10_state.md R33, R34). -/
def AddrSpace.empty : AddrSpace := { regions := [], readHandlers := [], writeHandlers := [] }

/-- `KIND` (42_dma_transfer.md R301): 4 and 7 stream, 9 is outbound, 10 is inbound. -/
def defaultKinds : Vector Kind 13 :=
  #v[.unimplemented, .unimplemented, .unimplemented, .unimplemented, .streaming, .unimplemented, .unimplemented,
    .streaming, .unimplemented, .outbound, .inbound, .unimplemented, .unimplemented]

/-- The power-on state (70_reset_and_hazards.md R452). `port`, `result` and `draws` are the model's own
(DESIGN CHOICE, logs 1, 5 and 8); `params` are the defaults of 00_scope.md R7 (log 14). -/
def State.reset : State :=
  { asP := AddrSpace.empty
    asS := AddrSpace.empty
    stores := { mainRam := [], iopRam := [], bootRom := [], scratch := [] }
    ch := Vector.replicate 13 Channel.zero
    dpcr0 := Config.dpcrReset
    dpcr1 := Config.dpcr2Reset
    latch0 := Latch.zero
    latch1 := Latch.zero
    dmacen := 0
    dmacinten := 0
    sif := { fifo0 := [], fifo1 := [], mscom := 0, smcom := 0, msflag := 0, smflag := 0, ctrl := 0, bd6 := 0 }
    fault := none
    out := []
    params := { fifoDepth := none, kinds := defaultKinds }
    draws := 0
    result := .none
    port := [] }

end Sys2Proof.Machine
end

