-- ==== Sys2Proof/Machine/Flags.lean ====
section
/-! DEFINITION. The interrupt latch (10_state.md R47 to R50, 41_dma_registers.md R270 to R273): every flag of the
block is computed here. -/

namespace Sys2Proof.Machine

/-- `force = low[15]` (10_state.md R47). -/
def Latch.force (l : Latch) : Bool := l.low.getLsbD 15

/-- `masks = low[22:16]` (10_state.md R47). -/
def Latch.masks (l : Latch) : BitVec 7 := l.low.extractLsb' 16 7

/-- `master_enable = low[23]` (10_state.md R47). -/
def Latch.masterEnable (l : Latch) : Bool := l.low.getLsbD 23

/-- Whether an unmasked flag is pending: `(masks AND flags) != 0`. -/
def Latch.pending (l : Latch) : Bool := (l.masks &&& l.flags) != 0

/-- `MF(h)` (10_state.md R48). -/
def Latch.masterFlag (l : Latch) : Bool := l.force || (l.masterEnable && l.pending)

/-- The word a read returns (41_dma_registers.md R272). -/
def Latch.read (l : Latch) : Word :=
  (BitVec.ofBool l.masterFlag).setWidth 32 <<< 31 ||| l.flags.setWidth 32 <<< 24 ||| l.low.setWidth 32

/-- The latch after a write: the low 24 bits are stored, a flag is cleared where the data has a 1, and bit 31 is
ignored (41_dma_registers.md R271). -/
def Latch.write (l : Latch) (data : Word) : Latch :=
  { low := data.setWidth 24, flags := l.flags &&& ~~~(data.extractLsb' 24 7) }

/-- The latch with the flag of index `n` set (42_dma_transfer.md R330). -/
def Latch.setFlag (l : Latch) (n : Nat) : Latch := { l with flags := l.flags ||| BitVec.twoPow 7 n }

end Sys2Proof.Machine
end

