-- ==== Sys2Proof/WellFormed.lean ====
section
/-! DEFINITION. Which terms of `Instr` are commands (30_encoding.md R141): the bounds that the operand types
do not already give. -/

namespace Sys2Proof

/-- Slots whose MADR and BCR offsets are channel registers: at slot 15 those two addresses are DPCR and DICR,
at slot 7 all four word offsets are controller registers (30_encoding.md R122, R126). -/
def slotHasLowRegs (slot : BitVec 4) : Bool := slot != 7 && slot != 15

/-- Slots whose CHCR and TADR offsets are channel registers (30_encoding.md R122, R126). -/
def slotHasHighRegs (slot : BitVec 4) : Bool := slot != 7

/-- The largest `vend` or `hi`: 2^32, "the end of the address space" (30_encoding.md R141). -/
def endOfAddressSpace : Nat := 2 ^ 32

/-- A handler number the port's 32-bit field can carry. DESIGN CHOICE (log 2), safe. -/
def Handler.encodable : Handler → Bool
  | .dma => true
  | .sif => true
  | .device n => n + 2 < 2 ^ 32

/-- The well-formed commands. `cycles` is any natural number in the spec; the port's field has 64 bits
(DESIGN CHOICE, log 2, safe: no rule reads it). -/
def Instr.wellFormed : Instr → Bool
  | .registerRegion _ _ vend _ _ => vend ≤ endOfAddressSpace
  | .registerReadHandler _ _ hi h => hi ≤ endOfAddressSpace && h.encodable
  | .registerWriteHandler _ _ hi h => hi ≤ endOfAddressSpace && h.encodable
  | .readByte _ _ => true
  | .readHalf _ _ => true
  | .readWord _ _ => true
  | .readDouble _ _ => true
  | .readQuad _ _ => true
  | .writeByte _ _ _ => true
  | .writeHalf _ _ _ => true
  | .writeWord _ _ _ => true
  | .writeDouble _ _ _ => true
  | .writeQuad _ _ _ => true
  | .translateVirtualAddress _ _ => true
  | .validCodeRegion _ _ => true
  | .dmaReset => true
  | .dmaRun cycles => cycles < 2 ^ 64
  | .dmaReadRegister _ _ => true
  | .dmaWriteRegister w _ data => data.toNat < 2 ^ w.bits
  | .writeSide0Fifo _ => true
  | .writeSide1FifoWord _ => true
  | .writeSide1FifoWide _ => true
  | .readSide0Fifo => true
  | .readSide1Fifo => true
  | .getSide0FifoSize => true
  | .getSide1FifoSize => true
  | .sifReadRegister _ _ => true
  | .sifWriteMscom _ _ => true
  | .sifWriteSmcom _ _ => true
  | .sifWriteMsflag _ _ => true
  | .sifWriteSmflag _ _ => true
  | .sifWriteCtrl _ _ => true
  | .sifWriteBd6 _ _ => true
  | .ldDpcr => true
  | .stDpcr _ => true
  | .ldDicr => true
  | .stDicr _ => true
  | .ldDpcr2 => true
  | .stDpcr2 _ => true
  | .ldDicr2 => true
  | .stDicr2 _ => true
  | .ldDmacen => true
  | .stDmacen _ => true
  | .ldDmacinten => true
  | .stDmacinten _ => true
  | .ldMadr slot => slotHasLowRegs slot
  | .stMadr slot _ => slotHasLowRegs slot
  | .ldBcr slot => slotHasLowRegs slot
  | .stBcr slot _ => slotHasLowRegs slot
  | .ldBcrCount _ => true
  | .stBcrCount _ _ => true
  | .ldChcr slot => slotHasHighRegs slot
  | .stChcr slot _ => slotHasHighRegs slot
  | .ldTadr slot => slotHasHighRegs slot
  | .stTadr slot _ => slotHasHighRegs slot
  | .ldMscomP => true
  | .stMscomP _ => true
  | .ldSmcomP => true
  | .stSmcomP _ => true
  | .ldMsflagP => true
  | .stMsflagP _ => true
  | .ldSmflagP => true
  | .stSmflagP _ => true
  | .ldCtrlP => true
  | .stCtrlP _ => true
  | .ldBd6P => true
  | .stBd6P _ => true
  | .ldMscomS => true
  | .stMscomS _ => true
  | .ldSmcomS => true
  | .stSmcomS _ => true
  | .ldMsflagS => true
  | .stMsflagS _ => true
  | .ldSmflagS => true
  | .stSmflagS _ => true
  | .ldCtrlS => true
  | .stCtrlS _ => true
  | .ldBd6S => true
  | .stBd6S _ => true

end Sys2Proof
end

