-- ==== Sys2Proof/Decode.lean ====
section
/-! DEFINITION. The encodings of 30_encoding.md: register addresses (R121, R125, R126, R150), command selectors
(R140), the decoder of a port item, and after it the encoder, written from the same tables. The byte layout of
a command tuple is a DESIGN CHOICE (log 2): a frame of 22 bytes, fields little-endian in the order of R140,
every byte past the last field zero. -/

namespace Sys2Proof

/-! ### Register addresses -/

/-- Controller register addresses (30_encoding.md R121). -/
def CtrlReg.addr : CtrlReg → Word
  | .dpcr => 0x1F8010F0
  | .dicr => 0x1F8010F4
  | .dpcr2 => 0x1F801570
  | .dicr2 => 0x1F801574
  | .dmacen => 0x1F801578
  | .dmacinten => 0x1F80157C

/-- The six controller registers, in the order of R121. -/
def CtrlReg.all : List CtrlReg := [.dpcr, .dicr, .dpcr2, .dicr2, .dmacen, .dmacinten]

/-- The dispatch test of 30_encoding.md R122: the address is compared with the six addresses of R121. -/
def CtrlReg.ofAddr (a : Word) : Option CtrlReg := CtrlReg.all.find? (fun r => r.addr == a)

/-- SIF register addresses of each side (30_encoding.md R150). -/
def SifReg.addr : Domain → SifReg → Word
  | .P, .mscom => 0x1000F200
  | .P, .smcom => 0x1000F210
  | .P, .msflag => 0x1000F220
  | .P, .smflag => 0x1000F230
  | .P, .ctrl => 0x1000F240
  | .P, .bd6 => 0x1000F260
  | .S, .mscom => 0x1D000000
  | .S, .smcom => 0x1D000010
  | .S, .msflag => 0x1D000020
  | .S, .smflag => 0x1D000030
  | .S, .ctrl => 0x1D000040
  | .S, .bd6 => 0x1D000060

/-- The six SIF registers. -/
def SifReg.all : List SifReg := [.mscom, .smcom, .msflag, .smflag, .ctrl, .bd6]

/-- The SIF register at an address of a side, if there is one (30_encoding.md R150). -/
def SifReg.ofAddr (side : Domain) (a : Word) : Option SifReg :=
  SifReg.all.find? (fun r => SifReg.addr side r == a)

/-- Channel register offsets, address bits [3:0] (30_encoding.md R125). -/
def ChanReg.off : ChanReg → BitVec 4
  | .madr => 0x0
  | .bcr => 0x4
  | .bcrCount => 0x6
  | .chcr => 0x8
  | .tadr => 0xC

/-- The width at which a channel register is accessed (30_encoding.md R125, R127). -/
def ChanReg.width : ChanReg → Width
  | .madr => .w32
  | .bcr => .w32
  | .bcrCount => .w16
  | .chcr => .w32
  | .tadr => .w32

/-- The channel registers. -/
def ChanReg.all : List ChanReg := [.madr, .bcr, .bcrCount, .chcr, .tadr]

/-- The channel register at an offset (30_encoding.md R125). -/
def ChanReg.ofOff (off : BitVec 4) : Option ChanReg := ChanReg.all.find? (fun r => r.off == off)

/-- The address of a slot's register in the block the slot belongs to: slots 8 to 15 in the window at
0x1F801080, slots 0 to 7 in the window at 0x1F801500 (30_encoding.md R126). -/
def channelAddr (slot : BitVec 4) (off : BitVec 4) : Word :=
  (if 8 ≤ slot.toNat then 0x1F801000 else 0x1F801500) ||| (slot ++ off).setWidth 32

/-- Raw slot to logical channel (30_encoding.md R123): slots 8 and up map to `slot - 8`, slots below 8 to
`slot + 7`, and a result of 13 or 14 is no channel. -/
def channelOfSlot (slot : BitVec 4) : Option (Fin 13) :=
  let c := if 8 ≤ slot.toNat then slot.toNat - 8 else slot.toNat + 7
  if h : c < 13 then some ⟨c, h⟩ else none

/-! ### Command selectors -/

/-- The selectors of 30_encoding.md R140. -/
inductive Selector where
  | registerRegion
  | registerReadHandler
  | registerWriteHandler
  | readByte
  | readHalf
  | readWord
  | readDouble
  | readQuad
  | writeByte
  | writeHalf
  | writeWord
  | writeDouble
  | writeQuad
  | translateVirtualAddress
  | validCodeRegion
  | dmaReset
  | dmaRun
  | dmaReadRegister
  | dmaWriteRegister
  | writeSide0Fifo
  | writeSide1FifoWord
  | writeSide1FifoWide
  | readSide0Fifo
  | readSide1Fifo
  | getSide0FifoSize
  | getSide1FifoSize
  | sifReadRegister
  | sifWriteRegister
deriving DecidableEq, Repr

/-- The 8-bit code of a selector (30_encoding.md R140). -/
def Selector.code : Selector → Nat
  | .registerRegion => 0x01
  | .registerReadHandler => 0x02
  | .registerWriteHandler => 0x03
  | .readByte => 0x10
  | .readHalf => 0x11
  | .readWord => 0x12
  | .readDouble => 0x13
  | .readQuad => 0x14
  | .writeByte => 0x18
  | .writeHalf => 0x19
  | .writeWord => 0x1A
  | .writeDouble => 0x1B
  | .writeQuad => 0x1C
  | .translateVirtualAddress => 0x20
  | .validCodeRegion => 0x21
  | .dmaReset => 0x30
  | .dmaRun => 0x31
  | .dmaReadRegister => 0x32
  | .dmaWriteRegister => 0x33
  | .writeSide0Fifo => 0x40
  | .writeSide1FifoWord => 0x41
  | .writeSide1FifoWide => 0x42
  | .readSide0Fifo => 0x43
  | .readSide1Fifo => 0x44
  | .getSide0FifoSize => 0x45
  | .getSide1FifoSize => 0x46
  | .sifReadRegister => 0x50
  | .sifWriteRegister => 0x51

/-- Every assigned selector. -/
def Selector.all : List Selector :=
  [.registerRegion, .registerReadHandler, .registerWriteHandler, .readByte, .readHalf, .readWord, .readDouble, .readQuad, .writeByte,
   .writeHalf, .writeWord, .writeDouble, .writeQuad, .translateVirtualAddress, .validCodeRegion, .dmaReset, .dmaRun,
   .dmaReadRegister, .dmaWriteRegister, .writeSide0Fifo, .writeSide1FifoWord, .writeSide1FifoWide, .readSide0Fifo, .readSide1Fifo,
   .getSide0FifoSize, .getSide1FifoSize, .sifReadRegister, .sifWriteRegister]

/-- The selector with a code, if the code is assigned (30_encoding.md R145). -/
def Selector.ofCode (n : Nat) : Option Selector := Selector.all.find? (fun s => s.code == n)

/-- The widths in bits of a command's operands, in the order of R140. -/
def Selector.layout : Selector → List Nat
  | .registerRegion => [8, 32, 40, 32, 8]
  | .registerReadHandler => [8, 32, 40, 32]
  | .registerWriteHandler => [8, 32, 40, 32]
  | .readByte => [8, 32]
  | .readHalf => [8, 32]
  | .readWord => [8, 32]
  | .readDouble => [8, 32]
  | .readQuad => [8, 32]
  | .writeByte => [8, 32, 8]
  | .writeHalf => [8, 32, 16]
  | .writeWord => [8, 32, 32]
  | .writeDouble => [8, 32, 64]
  | .writeQuad => [8, 32, 128]
  | .translateVirtualAddress => [8, 32]
  | .validCodeRegion => [8, 32]
  | .dmaReset => []
  | .dmaRun => [64]
  | .dmaReadRegister => [8, 32]
  | .dmaWriteRegister => [8, 32, 64]
  | .writeSide0Fifo => [32]
  | .writeSide1FifoWord => [32]
  | .writeSide1FifoWide => [64]
  | .readSide0Fifo => []
  | .readSide1Fifo => []
  | .getSide0FifoSize => []
  | .getSide1FifoSize => []
  | .sifReadRegister => [8, 8]
  | .sifWriteRegister => [8, 8, 32]

/-! ### Operand codes (DESIGN CHOICE, log 2) -/

/-- P is 0, S is 1. -/
def Domain.code : Domain → Nat
  | .P => 0
  | .S => 1

def Domain.ofCode : Nat → Option Domain
  | 0 => some .P
  | 1 => some .S
  | _ => none

def Store.code : Store → Nat
  | .mainRam => 0
  | .iopRam => 1
  | .bootRom => 2
  | .scratch => 3

def Store.ofCode : Nat → Option Store
  | 0 => some .mainRam
  | 1 => some .iopRam
  | 2 => some .bootRom
  | 3 => some .scratch
  | _ => none

def Width.code : Width → Nat
  | .w8 => 0
  | .w16 => 1
  | .w32 => 2
  | .w64 => 3

def Width.ofCode : Nat → Option Width
  | 0 => some .w8
  | 1 => some .w16
  | 2 => some .w32
  | 3 => some .w64
  | _ => none

def SifReg.code : SifReg → Nat
  | .mscom => 0
  | .smcom => 1
  | .msflag => 2
  | .smflag => 3
  | .ctrl => 4
  | .bd6 => 5

def SifReg.ofCode : Nat → Option SifReg
  | 0 => some .mscom
  | 1 => some .smcom
  | 2 => some .msflag
  | 3 => some .smflag
  | 4 => some .ctrl
  | 5 => some .bd6
  | _ => none

def Handler.code : Handler → Nat
  | .dma => 0
  | .sif => 1
  | .device n => n + 2

def Handler.ofCode : Nat → Handler
  | 0 => .dma
  | 1 => .sif
  | n + 2 => .device n

/-! ### Frames of bytes -/

/-- The length of a port item: the longest command is `WriteQuad`, 22 bytes. -/
def frameBytes : Nat := 22

/-- The number that bytes spell, the first byte least significant. -/
def bytesToNat : List Byte → Nat
  | [] => 0
  | b :: bs => b.toNat + 256 * bytesToNat bs

/-- The first `k` bytes of a number, the least significant first. -/
def natToBytes : Nat → Nat → List Byte
  | 0, _ => []
  | k + 1, w => BitVec.ofNat 8 w :: natToBytes k (w / 256)

/-- The values of consecutive bit fields, the first in the least significant bits. -/
def splitFields : List Nat → Nat → List Nat
  | [], _ => []
  | k :: ks, w => w % 2 ^ k :: splitFields ks (w / 2 ^ k)

/-- What stands above the fields. -/
def aboveFields : List Nat → Nat → Nat
  | [], w => w
  | k :: ks, w => aboveFields ks (w / 2 ^ k)

/-- The number whose consecutive bit fields have these widths and values. -/
def joinFields : List (Nat × Nat) → Nat
  | [] => 0
  | (k, v) :: fs => v + 2 ^ k * joinFields fs

/-! ### The decoder -/

/-- Why a port item is no command. Only `unknownSelector` is an event of the spec (30_encoding.md R145). -/
inductive DecodeError where
  /-- a selector that R140 does not assign -/
  | unknownSelector (sel : Nat)
  /-- not 22 bytes -/
  | wrongLength
  /-- a byte past the last operand is not zero -/
  | nonzeroPadding
  /-- an operand outside the values of R141 -/
  | badOperand
  /-- no register stands at the address of a register-access item -/
  | notARegister
deriving DecidableEq, Repr

/-- A condition on operands. -/
def requireThat (b : Bool) (i : Instr) : Option Instr := if b then some i else none

/-- `SIF.WriteRegister` of a register (30_encoding.md R140, selector 0x51). -/
def sifWriteInstr (side : Domain) (reg : SifReg) (v : Word) : Instr :=
  match reg with
  | .mscom => .sifWriteMscom side v
  | .smcom => .sifWriteSmcom side v
  | .msflag => .sifWriteMsflag side v
  | .smflag => .sifWriteSmflag side v
  | .ctrl => .sifWriteCtrl side v
  | .bd6 => .sifWriteBd6 side v

/-- The command of a selector and its operand fields (30_encoding.md R140, R141). -/
def buildCommand (sel : Selector) (fields : List Nat) : Option Instr :=
  match sel, fields with
  | .registerRegion, [d, vstart, vend, mask, store] =>
    (Domain.ofCode d).bind fun d => (Store.ofCode store).bind fun store =>
      requireThat (vend ≤ endOfAddressSpace) (.registerRegion d (BitVec.ofNat 32 vstart) vend (BitVec.ofNat 32 mask) store)
  | .registerReadHandler, [d, lo, hi, h] =>
    (Domain.ofCode d).bind fun d =>
      requireThat (hi ≤ endOfAddressSpace) (.registerReadHandler d (BitVec.ofNat 32 lo) hi (Handler.ofCode h))
  | .registerWriteHandler, [d, lo, hi, h] =>
    (Domain.ofCode d).bind fun d =>
      requireThat (hi ≤ endOfAddressSpace) (.registerWriteHandler d (BitVec.ofNat 32 lo) hi (Handler.ofCode h))
  | .readByte, [d, va] => (Domain.ofCode d).map fun d => .readByte d (BitVec.ofNat 32 va)
  | .readHalf, [d, va] => (Domain.ofCode d).map fun d => .readHalf d (BitVec.ofNat 32 va)
  | .readWord, [d, va] => (Domain.ofCode d).map fun d => .readWord d (BitVec.ofNat 32 va)
  | .readDouble, [d, va] => (Domain.ofCode d).map fun d => .readDouble d (BitVec.ofNat 32 va)
  | .readQuad, [d, va] => (Domain.ofCode d).map fun d => .readQuad d (BitVec.ofNat 32 va)
  | .translateVirtualAddress, [d, va] => (Domain.ofCode d).map fun d => .translateVirtualAddress d (BitVec.ofNat 32 va)
  | .validCodeRegion, [d, va] => (Domain.ofCode d).map fun d => .validCodeRegion d (BitVec.ofNat 32 va)
  | .writeByte, [d, va, v] => (Domain.ofCode d).map fun d => .writeByte d (BitVec.ofNat 32 va) (BitVec.ofNat 8 v)
  | .writeHalf, [d, va, v] => (Domain.ofCode d).map fun d => .writeHalf d (BitVec.ofNat 32 va) (BitVec.ofNat 16 v)
  | .writeWord, [d, va, v] => (Domain.ofCode d).map fun d => .writeWord d (BitVec.ofNat 32 va) (BitVec.ofNat 32 v)
  | .writeDouble, [d, va, v] => (Domain.ofCode d).map fun d => .writeDouble d (BitVec.ofNat 32 va) (BitVec.ofNat 64 v)
  | .writeQuad, [d, va, v] => (Domain.ofCode d).map fun d => .writeQuad d (BitVec.ofNat 32 va) (BitVec.ofNat 128 v)
  | .dmaReset, [] => some .dmaReset
  | .dmaRun, [cycles] => some (.dmaRun cycles)
  | .dmaReadRegister, [w, a] => (Width.ofCode w).map fun w => .dmaReadRegister w (BitVec.ofNat 32 a)
  | .dmaWriteRegister, [w, a, data] =>
    (Width.ofCode w).bind fun w =>
      requireThat (data < 2 ^ w.bits) (.dmaWriteRegister w (BitVec.ofNat 32 a) (BitVec.ofNat 64 data))
  | .writeSide0Fifo, [w] => some (.writeSide0Fifo (BitVec.ofNat 32 w))
  | .writeSide1FifoWord, [w] => some (.writeSide1FifoWord (BitVec.ofNat 32 w))
  | .writeSide1FifoWide, [v] => some (.writeSide1FifoWide (BitVec.ofNat 64 v))
  | .readSide0Fifo, [] => some .readSide0Fifo
  | .readSide1Fifo, [] => some .readSide1Fifo
  | .getSide0FifoSize, [] => some .getSide0FifoSize
  | .getSide1FifoSize, [] => some .getSide1FifoSize
  | .sifReadRegister, [side, reg] =>
    (Domain.ofCode side).bind fun side => (SifReg.ofCode reg).map fun reg => .sifReadRegister side reg
  | .sifWriteRegister, [side, reg, v] =>
    (Domain.ofCode side).bind fun side => (SifReg.ofCode reg).map fun reg => sifWriteInstr side reg (BitVec.ofNat 32 v)
  | _, _ => none

/-- Decode an item of the command format. -/
def decodeCommand (w : Nat) : Except DecodeError Instr :=
  match Selector.ofCode (w % 256) with
  | none => .error (.unknownSelector (w % 256))
  | some sel =>
    if aboveFields sel.layout (w / 256) ≠ 0 then .error .nonzeroPadding
    else
      match buildCommand sel (splitFields sel.layout (w / 256)) with
      | some i => .ok i
      | none => .error .badOperand

/-- The read row of a controller register. -/
def loadCtrl : CtrlReg → Instr
  | .dpcr => .ldDpcr
  | .dicr => .ldDicr
  | .dpcr2 => .ldDpcr2
  | .dicr2 => .ldDicr2
  | .dmacen => .ldDmacen
  | .dmacinten => .ldDmacinten

/-- The write row of a controller register. -/
def storeCtrl (r : CtrlReg) (v : Word) : Instr :=
  match r with
  | .dpcr => .stDpcr v
  | .dicr => .stDicr v
  | .dpcr2 => .stDpcr2 v
  | .dicr2 => .stDicr2 v
  | .dmacen => .stDmacen v
  | .dmacinten => .stDmacinten v

/-- The read row of a SIF register from a side. -/
def loadSif : Domain → SifReg → Instr
  | .P, .mscom => .ldMscomP
  | .P, .smcom => .ldSmcomP
  | .P, .msflag => .ldMsflagP
  | .P, .smflag => .ldSmflagP
  | .P, .ctrl => .ldCtrlP
  | .P, .bd6 => .ldBd6P
  | .S, .mscom => .ldMscomS
  | .S, .smcom => .ldSmcomS
  | .S, .msflag => .ldMsflagS
  | .S, .smflag => .ldSmflagS
  | .S, .ctrl => .ldCtrlS
  | .S, .bd6 => .ldBd6S

/-- The write row of a SIF register from a side. -/
def storeSif (d : Domain) (r : SifReg) (v : Word) : Instr :=
  match d, r with
  | .P, .mscom => .stMscomP v
  | .P, .smcom => .stSmcomP v
  | .P, .msflag => .stMsflagP v
  | .P, .smflag => .stSmflagP v
  | .P, .ctrl => .stCtrlP v
  | .P, .bd6 => .stBd6P v
  | .S, .mscom => .stMscomS v
  | .S, .smcom => .stSmcomS v
  | .S, .msflag => .stMsflagS v
  | .S, .smflag => .stSmflagS v
  | .S, .ctrl => .stCtrlS v
  | .S, .bd6 => .stBd6S v

/-- The read row of a channel register. -/
def loadChan (r : ChanReg) (slot : BitVec 4) : Instr :=
  match r with
  | .madr => .ldMadr slot
  | .bcr => .ldBcr slot
  | .bcrCount => .ldBcrCount slot
  | .chcr => .ldChcr slot
  | .tadr => .ldTadr slot

/-- The write row of a channel register. -/
def storeChan (r : ChanReg) (slot : BitVec 4) (v : Nat) : Instr :=
  match r with
  | .madr => .stMadr slot (BitVec.ofNat 32 v)
  | .bcr => .stBcr slot (BitVec.ofNat 32 v)
  | .bcrCount => .stBcrCount slot (BitVec.ofNat 16 v)
  | .chcr => .stChcr slot (BitVec.ofNat 32 v)
  | .tadr => .stTadr slot (BitVec.ofNat 32 v)

/-- The register that stands at a full register address (30_encoding.md R121, R150). -/
inductive BusReg where
  | ctrl (r : CtrlReg)
  | sif (d : Domain) (r : SifReg)
deriving DecidableEq, Repr

def BusReg.addr : BusReg → Word
  | .ctrl r => r.addr
  | .sif d r => SifReg.addr d r

def BusReg.all : List BusReg :=
  CtrlReg.all.map .ctrl ++ SifReg.all.map (.sif .P) ++ SifReg.all.map (.sif .S)

def BusReg.ofAddr (a : Word) : Option BusReg := BusReg.all.find? (fun r => r.addr == a)

def BusReg.load : BusReg → Instr
  | .ctrl r => loadCtrl r
  | .sif d r => loadSif d r

def BusReg.store (r : BusReg) (v : Word) : Instr :=
  match r with
  | .ctrl r => storeCtrl r v
  | .sif d r => storeSif d r v

/-- Decode an item of the full-address format: address (32 bits), kind (8 bits, 0 reads and 1 writes), and for
a write the data (32 bits). -/
def decodeBus (w : Nat) : Except DecodeError Instr :=
  match BusReg.ofAddr (BitVec.ofNat 32 w) with
  | none => .error .notARegister
  | some r =>
    if w / 2 ^ 32 % 2 ^ 8 = 0 then
      if w / 2 ^ 40 = 0 then .ok r.load else .error .nonzeroPadding
    else if w / 2 ^ 32 % 2 ^ 8 = 1 then
      if w / 2 ^ 72 = 0 then .ok (r.store (BitVec.ofNat 32 (w / 2 ^ 40))) else .error .nonzeroPadding
    else .error .badOperand

/-- Decode an item of the channel format: offset (4 bits), slot (4 bits), kind (8 bits), and for a write the data
(32 bits, 16 for BCR.count). The addresses of controller registers are excluded (30_encoding.md R122). -/
def decodeChannel (w : Nat) : Except DecodeError Instr :=
  match ChanReg.ofOff (BitVec.ofNat 4 w) with
  | none => .error .notARegister
  | some r =>
    let slot := BitVec.ofNat 4 (w / 16)
    if (CtrlReg.ofAddr (channelAddr slot r.off)).isSome then .error .notARegister
    else if w / 2 ^ 8 % 2 ^ 8 = 0 then
      if w / 2 ^ 16 = 0 then .ok (loadChan r slot) else .error .nonzeroPadding
    else if w / 2 ^ 8 % 2 ^ 8 = 1 then
      if w / 2 ^ (16 + r.width.bits) = 0 then .ok (storeChan r slot (w / 2 ^ 16)) else .error .nonzeroPadding
    else .error .badOperand

/-- The decoder: total on any bytes, it rejects by name. -/
def decode (item : PortItem) : Except DecodeError Instr :=
  if item.bytes.length ≠ frameBytes then .error .wrongLength
  else
    match item.form with
    | .command => decodeCommand (bytesToNat item.bytes)
    | .mmio32 => decodeBus (bytesToNat item.bytes)
    | .mmioChannel => decodeChannel (bytesToNat item.bytes)

/-! ### The table's words -/

/-- The format in which the host's word for an opcode-table row is read (log 3): 32 bits are a register
address; an assigned selector is a command; any other byte whose low nibble is a channel register offset is a
channel access; the rest is a command with an unassigned selector. -/
def tableForm (nbits w : Nat) : Form :=
  if nbits = 32 then .mmio32
  else if (Selector.ofCode (w % 256)).isSome then .command
  else if (ChanReg.ofOff (BitVec.ofNat 4 w)).isSome then .mmioChannel
  else .command

/-- The port item of a table word, every bit above `nbits` zero. -/
def tableItem (nbits w : Nat) : PortItem :=
  ⟨tableForm nbits w, natToBytes frameBytes (w % 2 ^ nbits)⟩

/-- The instruction the decoder reads from a table word. -/
def decodeTableWord (nbits w : Nat) : Option Instr :=
  match decode (tableItem nbits w) with
  | .ok i => some i
  | .error _ => none

/-! ### The encoder -/

/-- The fields of a command item: the selector, then the operands. -/
def commandFields (sel : Selector) (vals : List Nat) : List (Nat × Nat) :=
  (8, sel.code) :: sel.layout.zip vals

/-- The fields of a read at a full register address. -/
def busLoadFields (a : Word) : List (Nat × Nat) := [(32, a.toNat), (8, 0)]

/-- The fields of a write at a full register address. -/
def busStoreFields (a v : Word) : List (Nat × Nat) := [(32, a.toNat), (8, 1), (32, v.toNat)]

/-- The fields of a channel register read. -/
def chanLoadFields (r : ChanReg) (slot : BitVec 4) : List (Nat × Nat) :=
  [(4, r.off.toNat), (4, slot.toNat), (8, 0)]

/-- The fields of a channel register write. -/
def chanStoreFields (r : ChanReg) (slot : BitVec 4) (v : Nat) : List (Nat × Nat) :=
  [(4, r.off.toNat), (4, slot.toNat), (8, 1), (r.width.bits, v)]

/-- The format and the fields of an instruction. -/
def Instr.fields : Instr → Form × List (Nat × Nat)
  | .registerRegion d vstart vend mask store => (.command, commandFields .registerRegion [d.code, vstart.toNat, vend, mask.toNat, store.code])
  | .registerReadHandler d lo hi h => (.command, commandFields .registerReadHandler [d.code, lo.toNat, hi, h.code])
  | .registerWriteHandler d lo hi h => (.command, commandFields .registerWriteHandler [d.code, lo.toNat, hi, h.code])
  | .readByte d va => (.command, commandFields .readByte [d.code, va.toNat])
  | .readHalf d va => (.command, commandFields .readHalf [d.code, va.toNat])
  | .readWord d va => (.command, commandFields .readWord [d.code, va.toNat])
  | .readDouble d va => (.command, commandFields .readDouble [d.code, va.toNat])
  | .readQuad d va => (.command, commandFields .readQuad [d.code, va.toNat])
  | .writeByte d va v => (.command, commandFields .writeByte [d.code, va.toNat, v.toNat])
  | .writeHalf d va v => (.command, commandFields .writeHalf [d.code, va.toNat, v.toNat])
  | .writeWord d va v => (.command, commandFields .writeWord [d.code, va.toNat, v.toNat])
  | .writeDouble d va v => (.command, commandFields .writeDouble [d.code, va.toNat, v.toNat])
  | .writeQuad d va v => (.command, commandFields .writeQuad [d.code, va.toNat, v.toNat])
  | .translateVirtualAddress d va => (.command, commandFields .translateVirtualAddress [d.code, va.toNat])
  | .validCodeRegion d va => (.command, commandFields .validCodeRegion [d.code, va.toNat])
  | .dmaReset => (.command, commandFields .dmaReset [])
  | .dmaRun cycles => (.command, commandFields .dmaRun [cycles])
  | .dmaReadRegister w a => (.command, commandFields .dmaReadRegister [w.code, a.toNat])
  | .dmaWriteRegister w a data => (.command, commandFields .dmaWriteRegister [w.code, a.toNat, data.toNat])
  | .writeSide0Fifo w => (.command, commandFields .writeSide0Fifo [w.toNat])
  | .writeSide1FifoWord w => (.command, commandFields .writeSide1FifoWord [w.toNat])
  | .writeSide1FifoWide v => (.command, commandFields .writeSide1FifoWide [v.toNat])
  | .readSide0Fifo => (.command, commandFields .readSide0Fifo [])
  | .readSide1Fifo => (.command, commandFields .readSide1Fifo [])
  | .getSide0FifoSize => (.command, commandFields .getSide0FifoSize [])
  | .getSide1FifoSize => (.command, commandFields .getSide1FifoSize [])
  | .sifReadRegister side reg => (.command, commandFields .sifReadRegister [side.code, reg.code])
  | .sifWriteMscom side v => (.command, commandFields .sifWriteRegister [side.code, SifReg.code .mscom, v.toNat])
  | .sifWriteSmcom side v => (.command, commandFields .sifWriteRegister [side.code, SifReg.code .smcom, v.toNat])
  | .sifWriteMsflag side v => (.command, commandFields .sifWriteRegister [side.code, SifReg.code .msflag, v.toNat])
  | .sifWriteSmflag side v => (.command, commandFields .sifWriteRegister [side.code, SifReg.code .smflag, v.toNat])
  | .sifWriteCtrl side v => (.command, commandFields .sifWriteRegister [side.code, SifReg.code .ctrl, v.toNat])
  | .sifWriteBd6 side v => (.command, commandFields .sifWriteRegister [side.code, SifReg.code .bd6, v.toNat])
  | .ldDpcr => (.mmio32, busLoadFields (CtrlReg.addr .dpcr))
  | .stDpcr v => (.mmio32, busStoreFields (CtrlReg.addr .dpcr) v)
  | .ldDicr => (.mmio32, busLoadFields (CtrlReg.addr .dicr))
  | .stDicr v => (.mmio32, busStoreFields (CtrlReg.addr .dicr) v)
  | .ldDpcr2 => (.mmio32, busLoadFields (CtrlReg.addr .dpcr2))
  | .stDpcr2 v => (.mmio32, busStoreFields (CtrlReg.addr .dpcr2) v)
  | .ldDicr2 => (.mmio32, busLoadFields (CtrlReg.addr .dicr2))
  | .stDicr2 v => (.mmio32, busStoreFields (CtrlReg.addr .dicr2) v)
  | .ldDmacen => (.mmio32, busLoadFields (CtrlReg.addr .dmacen))
  | .stDmacen v => (.mmio32, busStoreFields (CtrlReg.addr .dmacen) v)
  | .ldDmacinten => (.mmio32, busLoadFields (CtrlReg.addr .dmacinten))
  | .stDmacinten v => (.mmio32, busStoreFields (CtrlReg.addr .dmacinten) v)
  | .ldMadr slot => (.mmioChannel, chanLoadFields .madr slot)
  | .stMadr slot v => (.mmioChannel, chanStoreFields .madr slot v.toNat)
  | .ldBcr slot => (.mmioChannel, chanLoadFields .bcr slot)
  | .stBcr slot v => (.mmioChannel, chanStoreFields .bcr slot v.toNat)
  | .ldBcrCount slot => (.mmioChannel, chanLoadFields .bcrCount slot)
  | .stBcrCount slot v => (.mmioChannel, chanStoreFields .bcrCount slot v.toNat)
  | .ldChcr slot => (.mmioChannel, chanLoadFields .chcr slot)
  | .stChcr slot v => (.mmioChannel, chanStoreFields .chcr slot v.toNat)
  | .ldTadr slot => (.mmioChannel, chanLoadFields .tadr slot)
  | .stTadr slot v => (.mmioChannel, chanStoreFields .tadr slot v.toNat)
  | .ldMscomP => (.mmio32, busLoadFields (SifReg.addr .P .mscom))
  | .stMscomP v => (.mmio32, busStoreFields (SifReg.addr .P .mscom) v)
  | .ldSmcomP => (.mmio32, busLoadFields (SifReg.addr .P .smcom))
  | .stSmcomP v => (.mmio32, busStoreFields (SifReg.addr .P .smcom) v)
  | .ldMsflagP => (.mmio32, busLoadFields (SifReg.addr .P .msflag))
  | .stMsflagP v => (.mmio32, busStoreFields (SifReg.addr .P .msflag) v)
  | .ldSmflagP => (.mmio32, busLoadFields (SifReg.addr .P .smflag))
  | .stSmflagP v => (.mmio32, busStoreFields (SifReg.addr .P .smflag) v)
  | .ldCtrlP => (.mmio32, busLoadFields (SifReg.addr .P .ctrl))
  | .stCtrlP v => (.mmio32, busStoreFields (SifReg.addr .P .ctrl) v)
  | .ldBd6P => (.mmio32, busLoadFields (SifReg.addr .P .bd6))
  | .stBd6P v => (.mmio32, busStoreFields (SifReg.addr .P .bd6) v)
  | .ldMscomS => (.mmio32, busLoadFields (SifReg.addr .S .mscom))
  | .stMscomS v => (.mmio32, busStoreFields (SifReg.addr .S .mscom) v)
  | .ldSmcomS => (.mmio32, busLoadFields (SifReg.addr .S .smcom))
  | .stSmcomS v => (.mmio32, busStoreFields (SifReg.addr .S .smcom) v)
  | .ldMsflagS => (.mmio32, busLoadFields (SifReg.addr .S .msflag))
  | .stMsflagS v => (.mmio32, busStoreFields (SifReg.addr .S .msflag) v)
  | .ldSmflagS => (.mmio32, busLoadFields (SifReg.addr .S .smflag))
  | .stSmflagS v => (.mmio32, busStoreFields (SifReg.addr .S .smflag) v)
  | .ldCtrlS => (.mmio32, busLoadFields (SifReg.addr .S .ctrl))
  | .stCtrlS v => (.mmio32, busStoreFields (SifReg.addr .S .ctrl) v)
  | .ldBd6S => (.mmio32, busLoadFields (SifReg.addr .S .bd6))
  | .stBd6S v => (.mmio32, busStoreFields (SifReg.addr .S .bd6) v)

/-- The port item of an instruction. -/
def encode (i : Instr) : PortItem := ⟨i.fields.1, natToBytes frameBytes (joinFields i.fields.2)⟩

end Sys2Proof
end

