-- ==== Sys2Proof/Machine/Operands.lean ====
section
/-! DEFINITION. How operands select state: address translation and page-table lookup (40_address_space.md R206,
R207), the halves and bits of a channel (41_dma_registers.md R262, R270), and the code and kind of a fault. -/

namespace Sys2Proof.Machine

/-! ### Translation and lookup -/

/-- `PHYS_MASK_S` and `PHYS_MASK_P` (00_scope.md R7): 29 bits each. -/
def physMask : Domain → Word
  | .P => 0x1FFFFFFF
  | .S => 0x1FFFFFFF

/-- `SPR_BASE` and `SPR_SIZE` (00_scope.md R7, D5). -/
def sprBase : Nat := 0x70000000

def sprSize : Nat := 0x4000

/-- `Translate_d(va)` (40_address_space.md R206). -/
def translate (d : Domain) (va : Word) : Word :=
  match d with
  | .S => va &&& physMask .S
  | .P => if sprBase ≤ va.toNat ∧ va.toNat < sprBase + sprSize then va else va &&& physMask .P

/-- `perm(store)` (40_address_space.md R200, 20_memory.md R102). -/
def storePerm : Store → Perm
  | .bootRom => .ro
  | .mainRam => .rw
  | .iopRam => .rw
  | .scratch => .rw

/-- Whether a region covers the page that starts at address `p`. -/
def Region.covers (r : Region) (p : Nat) : Bool := r.vstart ≤ p && p < r.vend

/-- The offset a region gives the page that starts at address `p` (40_address_space.md R200). -/
def Region.pageOff (r : Region) (p : Nat) : Nat := p &&& r.mask.toNat

/-- `page_table[p / PAGE_SIZE]` for the page that starts at address `p` (10_state.md R33). -/
def AddrSpace.pageEntry (as : AddrSpace) (p : Nat) : Option PageEntry :=
  (as.regions.find? (fun r => r.covers p)).map
    (fun r => { store := r.store, off := r.pageOff p, perm := storePerm r.store })

/-- The address at which a page starts. -/
def pageOf (pa : Word) : Nat := pa.toNat / Config.pageSize * Config.pageSize

/-- Whether a window holds an address: half-open (40_address_space.md R201). -/
def Window.holds (w : Window) (pa : Nat) : Bool := w.lo ≤ pa && pa < w.hi

/-- Whether two windows overlap (40_address_space.md R201). -/
def Window.overlaps (w : Window) (lo hi : Nat) : Bool := lo < w.hi && w.lo < hi

/-- What an access reaches (40_address_space.md R207). -/
inductive Target where
  | fast (store : Store) (off : Nat) (perm : Perm)
  | handler (h : Handler) (pa : Word)
  | unmapped (pa : Word)
deriving DecidableEq, Repr

/-- The direction of an access: it selects the handler list. -/
inductive Dir where
  | read
  | write
deriving DecidableEq, Repr

/-- The address space of a domain. -/
def State.space (s : State) : Domain → AddrSpace
  | .P => s.asP
  | .S => s.asS

/-- The handler list of a direction (10_state.md R34). -/
def AddrSpace.handlers (as : AddrSpace) : Dir → List Window
  | .read => as.readHandlers
  | .write => as.writeHandlers

/-- Lookup (40_address_space.md R207): the page table first, then the handler windows, else unmapped. -/
def lookup (d : Domain) (dir : Dir) (va : Word) (s : State) : Target :=
  let pa := translate d va
  match (s.space d).pageEntry (pageOf pa) with
  | some e => .fast e.store (e.off + pa.toNat % Config.pageSize) e.perm
  | none =>
    match ((s.space d).handlers dir).find? (fun w => w.holds pa.toNat) with
    | some w => .handler w.handler pa
    | none => .unmapped pa

/-- `CODE(d)` (40_address_space.md R213). -/
def isCodeStore : Domain → Store → Bool
  | .P, .mainRam => true
  | .P, .bootRom => true
  | .P, .iopRam => false
  | .P, .scratch => false
  | .S, .iopRam => true
  | .S, .bootRom => true
  | .S, .mainRam => false
  | .S, .scratch => false

/-! ### Channels -/

/-- `half(c)` (41_dma_registers.md R270). -/
def halfOf (c : Fin 13) : Half := if c.val < 7 then .h0 else .h1

/-- `n(c)`, the index of a channel in its half (41_dma_registers.md R270). -/
def idxOf (c : Fin 13) : Nat := if c.val < 7 then c.val else c.val - 7

/-- The slot field of a register address (30_encoding.md R123). -/
def slotOf (a : Word) : BitVec 4 := a.extractLsb' 4 4

/-- The offset field of a register address (30_encoding.md R125). -/
def offOf (a : Word) : BitVec 4 := a.extractLsb' 0 4

/-- The channel register at an offset and a width (30_encoding.md R125, R127). -/
def chanRegAt (off : BitVec 4) (w : Width) : Option ChanReg :=
  match ChanReg.ofOff off with
  | some r => if r.width = w then some r else none
  | none => none

/-- `BASE_MASK_S`, 24 bits (00_scope.md R7). -/
def baseMask : Word := 0x00FFFFFF

/-- The transfer enable bit of CHCR, `CHCR_EN_BIT` = 24 (30_encoding.md R132). -/
def chcrEnBit : Nat := 24

/-- `CHCR_EN_BIT` as a mask. -/
def chcrEnMask : Word := 0x01000000

/-! ### Tags -/

/-- `lo[30] = 1 or lo[31] = 1`: the tag latches `end_transfer` (42_dma_transfer.md R311, R321). -/
def tagEnds (lo : Word) : Bool := lo.getLsbD 30 || lo.getLsbD 31

/-- `roundup4` at 32 bits (00_scope.md R8). -/
def roundup4 (v : Word) : Word := (v + 3) &&& ~~~(3 : Word)

/-! ### Fault codes -/

/-- The kind of a fault code (60_exceptions.md R401). -/
def Cause.kind : Cause → FaultKind
  | .channelIndex _ => .fatal
  | .registerDecode _ _ => .fatal
  | .fifoUnderflow _ => .fatal
  | .unmodelledChannel _ => .fatal
  | .misaligned _ _ _ _ => .refused
  | .quadSecondary _ => .refused
  | .configWindow _ _ _ => .refused
  | .configPage _ _ => .refused
  | .registerWidth _ _ => .refused
  | .fifoOverflow _ => .refused
  | .unknownCommand _ => .refused

/-- The fault codes (60_exceptions.md R401). -/
def Cause.code : Cause → Nat
  | .channelIndex _ => 1
  | .registerDecode _ _ => 2
  | .fifoUnderflow _ => 3
  | .unmodelledChannel _ => 4
  | .misaligned _ _ _ _ => 16
  | .quadSecondary _ => 17
  | .configWindow _ _ _ => 18
  | .configPage _ _ => 18
  | .registerWidth _ _ => 19
  | .fifoOverflow _ => 20
  | .unknownCommand _ => 21

end Sys2Proof.Machine
end

