-- ==== Sys2Proof/Machine/Ops.lean ====
section
/-! DEFINITION. The named operations over the state: register accessors, store bytes, output events, FIFOs, and
`raise`, the one way FAULT is set (60_exceptions.md R400). There is no return from a fault (R414), and the
only acknowledgement of an interrupt is a latch write (R415, `Latch.write`). -/

namespace Sys2Proof.Machine

/-! ### How a command ends -/

/-- How part of a command ends: with a value, or by a raise, after which the command has no further effect. A part
does not touch FAULT: `runCommand` records the cause. -/
inductive Reply (α : Type) where
  | done (v : α) (s : State)
  | raised (c : Cause) (s : State)

/-- Continue with the value and the state, unless the command has ended. -/
def Reply.andThen {α β : Type} (r : Reply α) (f : α → State → Reply β) : Reply β :=
  match r with
  | .done v s => f v s
  | .raised c s => .raised c s

/-- The state in which a reply leaves the machine. -/
def Reply.state {α : Type} : Reply α → State
  | .done _ s => s
  | .raised _ s => s

/-- A part that returns no value. -/
def Reply.noResult (r : Reply Unit) : Reply Result := r.andThen fun _ s => .done .none s

/-- `raise Fatal` and `raise Refuse` by a command: `FAULT` is set if it was `None`; the effects made before stay
(60_exceptions.md R400). The record holds the command with its operands (10_state.md R60). -/
def raise (c : Cause) (who : Issued) (s : State) : State :=
  match s.fault with
  | none => { s with fault := some { cause := c, command := who } }
  | some _ => s

/-- What a command returns to its caller (log 5). -/
def State.setResult (s : State) (r : Result) : State := { s with result := r }

/-- A command: nothing when `FAULT` is set (10_state.md R60, 60_exceptions.md R403); else it runs with its returned
value cleared, and ends with its value, or with none and its fault when it raised (log 5). -/
def runCommand (who : Issued) (f : State → Reply Result) (s : State) : Host.Outcome State Fault Refusal :=
  match s.fault with
  | some _ => .next s
  | none =>
    match f (s.setResult .none) with
    | .done v t => .next (t.setResult v)
    | .raised c t => .next (raise c who t)

/-- Append events to the output log, in order. -/
def State.emitAll (s : State) (es : List Event) : State := { s with out := s.out ++ es }

/-- `emit E` (00_scope.md R9): append to the output log. -/
def State.emit (s : State) (e : Event) : State := s.emitAll [e]

/-! ### Stores -/

/-- The written byte at an offset, if there is one. -/
def Memory.find (m : Memory) (a : Nat) : Option Byte :=
  match m with
  | [] => none
  | (k, b) :: r => if k = a then some b else Memory.find r a

/-- Write a byte, keeping the offsets strictly rising. -/
def Memory.put (m : Memory) (a : Nat) (b : Byte) : Memory :=
  match m with
  | [] => [(a, b)]
  | (k, x) :: r =>
    if a < k then (a, b) :: (k, x) :: r
    else if a = k then (a, b) :: r
    else (k, x) :: Memory.put r a b

/-- The canonical form: offsets strictly rising. An unlisted offset has no listed value, so no entry equals what
one reads as (log 6). -/
def Memory.wf (m : Memory) : Bool :=
  match m with
  | [] => true
  | (k, _) :: r =>
    (match r with
      | [] => true
      | (j, _) :: _ => k < j) && Memory.wf r

/-- The bytes written to a store. -/
def Stores.get (ss : Stores) : Store → Memory
  | .mainRam => ss.mainRam
  | .iopRam => ss.iopRam
  | .bootRom => ss.bootRom
  | .scratch => ss.scratch

def Stores.set (ss : Stores) (st : Store) (m : Memory) : Stores :=
  match st with
  | .mainRam => { ss with mainRam := m }
  | .iopRam => { ss with iopRam := m }
  | .bootRom => { ss with bootRom := m }
  | .scratch => { ss with scratch := m }

/-- `STORES[store][off]`: the last byte written there, or the free power-on byte (10_state.md R35). -/
def State.byteAt (s : State) (st : Store) (off : Nat) : Byte :=
  ((s.stores.get st).find off).getD (Config.powerOnByte st off)

/-- `STORES[store][off] <- b`. -/
def State.putByte (s : State) (st : Store) (off : Nat) (b : Byte) : State :=
  { s with stores := s.stores.set st ((s.stores.get st).put off b) }

/-- The little-endian value of `n` bytes (20_memory.md R80). -/
def State.loadLE (s : State) (st : Store) (off : Nat) : Nat → Nat
  | 0 => 0
  | n + 1 => (s.byteAt st off).toNat + 256 * State.loadLE s st (off + 1) n

/-- Store the `n` low bytes of a value, little-endian (20_memory.md R80). -/
def State.storeLE (s : State) (st : Store) (off : Nat) (n : Nat) (v : Nat) : State :=
  match n with
  | 0 => s
  | n + 1 => State.storeLE (s.putByte st off (BitVec.ofNat 8 v)) st (off + 1) n (v / 256)

/-! ### Registers -/

/-- `ch[c]` (10_state.md R40). -/
def State.chan (s : State) (c : Fin 13) : Channel := s.ch[c.val]

def State.setChan (s : State) (c : Fin 13) (v : Channel) : State := { s with ch := s.ch.set c.val v }

/-- `DPCR[h]` (10_state.md R45). -/
def State.dpcr (s : State) : Half → Word
  | .h0 => s.dpcr0
  | .h1 => s.dpcr1

def State.setDpcr (s : State) (h : Half) (v : Word) : State :=
  match h with
  | .h0 => { s with dpcr0 := v }
  | .h1 => { s with dpcr1 := v }

/-- `LATCH[h]` (10_state.md R47). -/
def State.latch (s : State) : Half → Latch
  | .h0 => s.latch0
  | .h1 => s.latch1

def State.setLatch (s : State) (h : Half) (l : Latch) : State :=
  match h with
  | .h0 => { s with latch0 := l }
  | .h1 => { s with latch1 := l }

/-- `KIND(c)` (42_dma_transfer.md R301). -/
def State.kind (s : State) (c : Fin 13) : Kind := s.params.kinds[c.val]

/-- `ENABLE_BIT(c)` (41_dma_registers.md R262). -/
def State.enableBit (s : State) (c : Fin 13) : Bool := (s.dpcr (halfOf c)).getLsbD (4 * idxOf c + 3)

/-- Both enable bits are set (42_dma_transfer.md R300, R302). -/
def State.eligible (s : State) (c : Fin 13) : Bool := (s.chan c).control.getLsbD chcrEnBit && s.enableBit c

/-- Replace one domain's address space. -/
def State.setSpace (s : State) (d : Domain) (as : AddrSpace) : State :=
  match d with
  | .P => { s with asP := as }
  | .S => { s with asS := as }

/-! ### FIFOs -/

/-- The words of a FIFO, head first (10_state.md R55). -/
def State.fifo (s : State) : FifoSide → List Word
  | .side0 => s.sif.fifo0
  | .side1 => s.sif.fifo1

def State.setFifo (s : State) (side : FifoSide) (ws : List Word) : State :=
  match side with
  | .side0 => { s with sif := { s.sif with fifo0 := ws } }
  | .side1 => { s with sif := { s.sif with fifo1 := ws } }

/-- Append words to the tail (43_sif.md R351, R352). -/
def State.append (s : State) (side : FifoSide) (ws : List Word) : State := s.setFifo side (s.fifo side ++ ws)

/-- Whether `n` more words fit in a FIFO of `FIFO_DEPTH` words (43_sif.md R352, 42_dma_transfer.md R311, R312). -/
def State.hasRoom (s : State) (side : FifoSide) (n : Nat) : Bool :=
  match s.params.fifoDepth with
  | none => true
  | some k => (s.fifo side).length + n ≤ k

end Sys2Proof.Machine
end

