-- ==== Sys2Proof/Machine/DmaRegister.lean ====
section
/-! DEFINITION. The registers of the DMA controller (41_dma_registers.md): what a read returns, what a write
stores, and the address decode in front of them (R240). -/

namespace Sys2Proof.Machine

/-- Read a controller register (41_dma_registers.md R260, R263, R264, R272). -/
def readCtrl (r : CtrlReg) (s : State) : Word :=
  match r with
  | .dpcr => s.dpcr .h0
  | .dicr => (s.latch .h0).read
  | .dpcr2 => s.dpcr .h1
  | .dicr2 => (s.latch .h1).read
  | .dmacen => s.dmacen
  | .dmacinten => s.dmacinten

/-- Write a controller register (41_dma_registers.md R261, R263, R264, R271). A latch write emits nothing (D22). -/
def writeCtrl (r : CtrlReg) (v : Word) (s : State) : State :=
  match r with
  | .dpcr => s.setDpcr .h0 v
  | .dicr => s.setLatch .h0 ((s.latch .h0).write v)
  | .dpcr2 => s.setDpcr .h1 v
  | .dicr2 => s.setLatch .h1 ((s.latch .h1).write v)
  | .dmacen => { s with dmacen := v }
  | .dmacinten => { s with dmacinten := v }

/-- BCR: `count` above `size` (41_dma_registers.md R243, 30_encoding.md R130). -/
def Channel.bcr (ch : Channel) : Word := ch.count ++ ch.size

/-- Read a channel register, zero-extended (41_dma_registers.md R241, R243, R245, R247, R249). -/
def readChan (r : ChanReg) (ch : Channel) : Word :=
  match r with
  | .madr => ch.base
  | .bcr => ch.bcr
  | .bcrCount => ch.count.setWidth 32
  | .chcr => ch.control
  | .tadr => ch.tag

/-- Write a channel register (41_dma_registers.md R242, R244, R246, R248, R250). -/
def writeChan (r : ChanReg) (v : Word) (ch : Channel) : Channel :=
  match r with
  | .madr => { ch with base := v &&& baseMask }
  | .bcr => { ch with size := v.extractLsb' 0 16, count := v.extractLsb' 16 16 }
  | .bcrCount => { ch with count := v.extractLsb' 0 16 }
  | .chcr => { ch with control := v }
  | .tadr => { ch with tag := v }

/-- What a DMA register access reaches. -/
inductive DmaTarget where
  | ctrl (r : CtrlReg)
  | chan (r : ChanReg) (c : Fin 13)
  | bad (e : Cause)
deriving DecidableEq, Repr

/-- The decode of 41_dma_registers.md R240, its checks in the order of 60_exceptions.md R403. -/
def dmaTarget (w : Width) (a : Word) : DmaTarget :=
  match CtrlReg.ofAddr a with
  | some r => if w = .w32 then .ctrl r else .bad (.registerDecode a w)
  | none =>
    match channelOfSlot (slotOf a) with
    | none => .bad (.channelIndex a)
    | some c =>
      match chanRegAt (offOf a) w with
      | some r => .chan r c
      | none => .bad (.registerDecode a w)

/-- `DMA.ReadRegister(width, a)` (41_dma_registers.md R240): no side effect. -/
def dmaRead (w : Width) (a : Word) (s : State) : Reply (BitVec 64) :=
  match dmaTarget w a with
  | .ctrl r => .done ((readCtrl r s).setWidth 64) s
  | .chan r c => .done ((readChan r (s.chan c)).setWidth 64) s
  | .bad e => .raised e s

/-- `DMA.WriteRegister(width, a, data)` (41_dma_registers.md R240). -/
def dmaWrite (w : Width) (a : Word) (data : BitVec 64) (s : State) : Reply Unit :=
  match dmaTarget w a with
  | .ctrl r => .done () (writeCtrl r (data.setWidth 32) s)
  | .chan r c => .done () (s.setChan c (writeChan r (data.setWidth 32) (s.chan c)))
  | .bad e => .raised e s

end Sys2Proof.Machine
end

