-- ==== Sys2Proof/Machine/Sif.lean ====
section
/-! DEFINITION. The SIF (43_sif.md): FIFO commands 0x40 to 0x46 and register commands 0x50 and 0x51. -/

namespace Sys2Proof.Machine

/-! ### Handshake registers -/

/-- `SIF.reg`, the same from either side (43_sif.md R359). -/
def Sif.reg (f : Sif) : SifReg → Word
  | .mscom => f.mscom
  | .smcom => f.smcom
  | .msflag => f.msflag
  | .smflag => f.smflag
  | .ctrl => f.ctrl
  | .bd6 => f.bd6

/-- MSCOM: stored from side P, ignored from side S (43_sif.md R360). -/
def Sif.writeMscom (f : Sif) (side : Domain) (v : Word) : Sif :=
  match side with
  | .P => { f with mscom := v }
  | .S => f

/-- SMCOM: stored from side S, ignored from side P (43_sif.md R361). -/
def Sif.writeSmcom (f : Sif) (side : Domain) (v : Word) : Sif :=
  match side with
  | .P => f
  | .S => { f with smcom := v }

/-- MSFLAG: side P sets bits, side S clears them (43_sif.md R362). -/
def Sif.writeMsflag (f : Sif) (side : Domain) (v : Word) : Sif :=
  match side with
  | .P => { f with msflag := f.msflag ||| v }
  | .S => { f with msflag := f.msflag &&& ~~~v }

/-- SMFLAG: side S sets bits, side P clears them (43_sif.md R363). -/
def Sif.writeSmflag (f : Sif) (side : Domain) (v : Word) : Sif :=
  match side with
  | .P => { f with smflag := f.smflag &&& ~~~v }
  | .S => { f with smflag := f.smflag ||| v }

/-- CTRL: stored from either side (43_sif.md R364). -/
def Sif.writeCtrl (f : Sif) (_side : Domain) (v : Word) : Sif := { f with ctrl := v }

/-- BD6: stored from either side (43_sif.md R365). -/
def Sif.writeBd6 (f : Sif) (_side : Domain) (v : Word) : Sif := { f with bd6 := v }

/-- `SIF.WriteRegister(side, reg, v)` (43_sif.md R360 to R365). -/
def Sif.write (f : Sif) (side : Domain) (r : SifReg) (v : Word) : Sif :=
  match r with
  | .mscom => f.writeMscom side v
  | .smcom => f.writeSmcom side v
  | .msflag => f.writeMsflag side v
  | .smflag => f.writeSmflag side v
  | .ctrl => f.writeCtrl side v
  | .bd6 => f.writeBd6 side v

/-- The SIF after a register write. -/
def State.setSif (s : State) (f : Sif) : State := { s with sif := f }

/-! ### FIFO operations -/

/-- `push0` (43_sif.md R351): refused when the queue is full. -/
def pushSide0 (w : Word) (s : State) : Reply Unit :=
  if s.params.fifoDepth = some (s.fifo .side0).length then .raised (.fifoOverflow .side0) s
  else .done () (s.append .side0 [w])

/-- `push1` (43_sif.md R352): refused, whole, when the words do not all fit. -/
def pushSide1 (ws : List Word) (s : State) : Reply Unit :=
  if s.hasRoom .side1 ws.length then .done () (s.append .side1 ws)
  else .raised (.fifoOverflow .side1) s

/-- The two words of a wide value, low then high (43_sif.md R352). -/
def wideWords (v : BitVec 64) : List Word := [v.extractLsb' 0 32, v.extractLsb' 32 32]

/-- `pop0` and `pop1` (43_sif.md R353): an empty queue is fatal. -/
def popSide (side : FifoSide) (s : State) : Reply Word :=
  match s.fifo side with
  | [] => .raised (.fifoUnderflow side) s
  | w :: ws => .done w (s.setFifo side ws)

/-! ### Meanings -/

/-- 0x40 (43_sif.md R351). -/
def execWriteSide0Fifo (w : Word) (s : State) : Host.Outcome State Fault Refusal :=
  runCommand (.command (.writeSide0Fifo w)) (fun s => (pushSide0 w s).noResult) s

/-- 0x41 (43_sif.md R352). -/
def execWriteSide1FifoWord (w : Word) (s : State) : Host.Outcome State Fault Refusal :=
  runCommand (.command (.writeSide1FifoWord w)) (fun s => (pushSide1 [w] s).noResult) s

/-- 0x42 (43_sif.md R352). -/
def execWriteSide1FifoWide (v : BitVec 64) (s : State) : Host.Outcome State Fault Refusal :=
  runCommand (.command (.writeSide1FifoWide v)) (fun s => (pushSide1 (wideWords v) s).noResult) s

/-- 0x43 (43_sif.md R353). -/
def execReadSide0Fifo (s : State) : Host.Outcome State Fault Refusal :=
  runCommand (.command .readSide0Fifo) (fun s => (popSide .side0 s).andThen fun w s => .done (.word w) s) s

/-- 0x44 (43_sif.md R353). -/
def execReadSide1Fifo (s : State) : Host.Outcome State Fault Refusal :=
  runCommand (.command .readSide1Fifo) (fun s => (popSide .side1 s).andThen fun w s => .done (.word w) s) s

/-- 0x45 (43_sif.md R354). -/
def execGetSide0FifoSize (s : State) : Host.Outcome State Fault Refusal :=
  runCommand (.command .getSide0FifoSize) (fun s => .done (.size (s.fifo .side0).length) s) s

/-- 0x46 (43_sif.md R354). -/
def execGetSide1FifoSize (s : State) : Host.Outcome State Fault Refusal :=
  runCommand (.command .getSide1FifoSize) (fun s => .done (.size (s.fifo .side1).length) s) s

/-- 0x50 (43_sif.md R359). -/
def execSifReadRegister (side : Domain) (reg : SifReg) (s : State) : Host.Outcome State Fault Refusal :=
  runCommand (.command (.sifReadRegister side reg)) (fun s => .done (.word (s.sif.reg reg)) s) s

/-- A SIF register write as a command. -/
def sifWriteCommand (side : Domain) (r : SifReg) (v : Word) (s : State) : Reply Result :=
  .done .none (s.setSif (s.sif.write side r v))

/-- 0x51 MSCOM (43_sif.md R360). -/
def execSifWriteMscom (side : Domain) (v : Word) (s : State) : Host.Outcome State Fault Refusal :=
  runCommand (.command (.sifWriteMscom side v)) (sifWriteCommand side .mscom v) s

/-- 0x51 SMCOM (43_sif.md R361). -/
def execSifWriteSmcom (side : Domain) (v : Word) (s : State) : Host.Outcome State Fault Refusal :=
  runCommand (.command (.sifWriteSmcom side v)) (sifWriteCommand side .smcom v) s

/-- 0x51 MSFLAG (43_sif.md R362). -/
def execSifWriteMsflag (side : Domain) (v : Word) (s : State) : Host.Outcome State Fault Refusal :=
  runCommand (.command (.sifWriteMsflag side v)) (sifWriteCommand side .msflag v) s

/-- 0x51 SMFLAG (43_sif.md R363). -/
def execSifWriteSmflag (side : Domain) (v : Word) (s : State) : Host.Outcome State Fault Refusal :=
  runCommand (.command (.sifWriteSmflag side v)) (sifWriteCommand side .smflag v) s

/-- 0x51 CTRL (43_sif.md R364). -/
def execSifWriteCtrl (side : Domain) (v : Word) (s : State) : Host.Outcome State Fault Refusal :=
  runCommand (.command (.sifWriteCtrl side v)) (sifWriteCommand side .ctrl v) s

/-- 0x51 BD6 (43_sif.md R365). -/
def execSifWriteBd6 (side : Domain) (v : Word) (s : State) : Host.Outcome State Fault Refusal :=
  runCommand (.command (.sifWriteBd6 side v)) (sifWriteCommand side .bd6 v) s

end Sys2Proof.Machine
end

