-- ==== Sys2Proof/Machine/Access.lean ====
section
/-! DEFINITION. `MemRead_d` and `MemWrite_d` (40_address_space.md R205 to R211): alignment, lookup, the fast path,
handler dispatch and unmapped accesses. -/

namespace Sys2Proof.Machine

/-! ### Handlers (40_address_space.md R205) -/

/-- The SIF read handler of a domain (43_sif.md R366). -/
def sifHandlerRead (d : Domain) (w : Width) (pa : Word) (s : State) : Reply (BitVec 64) :=
  match SifReg.ofAddr d pa with
  | some r =>
    if w = .w32 then .done ((s.sif.reg r).setWidth 64) s else .raised (.registerWidth pa w) s
  | none => .done 0 (s.emit (.diag .read d w.bytes pa none))

/-- The SIF write handler of a domain (43_sif.md R366). -/
def sifHandlerWrite (d : Domain) (w : Width) (pa : Word) (v : BitVec 64) (s : State) : Reply Unit :=
  match SifReg.ofAddr d pa with
  | some r =>
    if w = .w32 then .done () (s.setSif (s.sif.write d r (v.setWidth 32))) else .raised (.registerWidth pa w) s
  | none => .done () (s.emit (.diag .write d w.bytes pa (some v)))

/-- A free value cut to an access width. -/
def drawOf (n : Nat) (w : Width) : BitVec 64 := ((Config.handlerDraw n).toNat % 2 ^ w.bits : Nat)

/-- A read from an opaque collaborator: a fresh free value, logged (40_address_space.md R205; log 8). -/
def deviceRead (d : Domain) (h : Handler) (w : Width) (pa : Word) (s : State) : Reply (BitVec 64) :=
  .done (drawOf s.draws w) ({ s with draws := s.draws + 1 }.emit (.handlerRead d h w pa))

/-- A write to an opaque collaborator: logged, no state of the block changes (40_address_space.md R205). -/
def deviceWrite (d : Domain) (h : Handler) (w : Width) (pa : Word) (v : BitVec 64) (s : State) : Reply Unit :=
  .done () (s.emit (.handlerWrite d h w pa v))

/-- `h.read(8n, pa)`. The DMA identity on domain P is not the secondary controller: it is an opaque collaborator
there (60_exceptions.md R420; log 11). -/
def handlerRead (d : Domain) (h : Handler) (w : Width) (pa : Word) (s : State) : Reply (BitVec 64) :=
  match d, h with
  | .S, .dma => dmaRead w pa s
  | .P, .dma => deviceRead .P .dma w pa s
  | d, .sif => sifHandlerRead d w pa s
  | d, .device n => deviceRead d (.device n) w pa s

/-- `h.write(8n, pa, v)`. -/
def handlerWrite (d : Domain) (h : Handler) (w : Width) (pa : Word) (v : BitVec 64) (s : State) : Reply Unit :=
  match d, h with
  | .S, .dma => dmaWrite w pa v s
  | .P, .dma => deviceWrite .P .dma w pa v s
  | d, .sif => sifHandlerWrite d w pa v s
  | d, .device n => deviceWrite d (.device n) w pa v s

/-! ### The access -/

/-- `va % n = 0` (20_memory.md R85). -/
def aligned (w : Width) (va : Word) : Bool := va.toNat % w.bytes == 0

/-- `MemRead_d(va, n)` (40_address_space.md R208). The value is zero-extended to 64 bits. -/
def memRead (d : Domain) (w : Width) (va : Word) (s : State) : Reply (BitVec 64) :=
  if aligned w va then
    match lookup d .read va s with
    | .fast st off _ => .done (BitVec.ofNat 64 (s.loadLE st off w.bytes)) s
    | .handler h pa => handlerRead d h w pa s
    | .unmapped _ => .done 0 (s.emit (.diag .read d w.bytes va none))
  else .raised (.misaligned .read d w.bytes va) s

/-- `MemWrite_d(va, n, v)` (40_address_space.md R209). -/
def memWrite (d : Domain) (w : Width) (va : Word) (v : BitVec 64) (s : State) : Reply Unit :=
  if aligned w va then
    match lookup d .write va s with
    | .fast st off .rw => .done () (s.storeLE st off w.bytes v.toNat)
    | .fast _ _ .ro => .done () (s.emit (.diag .writeRO d w.bytes va (some v)))
    | .handler h pa => handlerWrite d h w pa v s
    | .unmapped _ => .done () (s.emit (.diag .write d w.bytes va (some v)))
  else .raised (.misaligned .write d w.bytes va) s

/-- A value of an access width, as the command returns it. -/
def resultOf (w : Width) (v : BitVec 64) : Result :=
  match w with
  | .w8 => .byte (v.setWidth 8)
  | .w16 => .half (v.setWidth 16)
  | .w32 => .word (v.setWidth 32)
  | .w64 => .double v

/-- A read command. -/
def readCommand (d : Domain) (w : Width) (va : Word) (s : State) : Reply Result :=
  (memRead d w va s).andThen fun v s => .done (resultOf w v) s

/-- A write command. -/
def writeCommand (d : Domain) (w : Width) (va : Word) (v : BitVec 64) (s : State) : Reply Result :=
  (memWrite d w va v s).noResult

end Sys2Proof.Machine
end

