-- ==== Sys2Proof/Machine/AddressSpace.lean ====
section
/-! DEFINITION. The address-space commands 0x01 to 0x21 (40_address_space.md). -/

namespace Sys2Proof.Machine

/-! ### Registration -/

/-- The addresses at which the pages of a window start, in ascending order. -/
def pagesOf (vstart vend : Nat) : List Nat :=
  (List.range' (vstart / Config.pageSize) ((vend - vstart) / Config.pageSize)).map (· * Config.pageSize)

/-- The check pass of `RegisterRegion` on one page (40_address_space.md R200): already mapped, or past the end of
the store. -/
def badPage (as : AddrSpace) (mask : Word) (st : Store) (p : Nat) : Bool :=
  (as.pageEntry p).isSome || (p &&& mask.toNat) + Config.pageSize > Config.storeSize st

/-- The page-table entries of a window, written (40_address_space.md R200). -/
def AddrSpace.addRegion (as : AddrSpace) (r : Region) : AddrSpace := { as with regions := r :: as.regions }

/-- `RegisterRegion` (40_address_space.md R200): the bounds, then the check pass, then the write pass. -/
def registerRegion (d : Domain) (vstart : Nat) (vend : Nat) (mask : Word) (st : Store) (s : State) : Reply Result :=
  if vstart % Config.pageSize ≠ 0 ∨ vend % Config.pageSize ≠ 0 ∨ vend ≤ vstart then
    .raised (.configWindow d vstart vend) s
  else
    match (pagesOf vstart vend).find? (badPage (s.space d) mask st) with
    | some p => .raised (.configPage d p) s
    | none =>
      .done .none (s.setSpace d ((s.space d).addRegion { vstart := vstart, vend := vend, mask := mask, store := st }))

/-- A handler window, appended to the list of its direction (40_address_space.md R201). -/
def AddrSpace.addHandler (as : AddrSpace) (dir : Dir) (w : Window) : AddrSpace :=
  match dir with
  | .read => { as with readHandlers := as.readHandlers ++ [w] }
  | .write => { as with writeHandlers := as.writeHandlers ++ [w] }

/-- `RegisterReadHandler` and `RegisterWriteHandler` (40_address_space.md R201). -/
def registerHandler (d : Domain) (dir : Dir) (lo hi : Nat) (h : Handler) (s : State) : Reply Result :=
  if hi ≤ lo then .raised (.configWindow d lo hi) s
  else if ((s.space d).handlers dir).any (fun w => w.overlaps lo hi) then .raised (.configWindow d lo hi) s
  else .done .none (s.setSpace d ((s.space d).addHandler dir { lo := lo, hi := hi, handler := h }))

/-- 0x01 (40_address_space.md R200). -/
def execRegisterRegion (d : Domain) (vstart : Word) (vend : Nat) (mask : Word) (st : Store) (s : State) :
    Host.Outcome State Fault Refusal :=
  runCommand (.command (.registerRegion d vstart vend mask st)) (registerRegion d vstart.toNat vend mask st) s

/-- 0x02 (40_address_space.md R201). -/
def execRegisterReadHandler (d : Domain) (lo : Word) (hi : Nat) (h : Handler) (s : State) :
    Host.Outcome State Fault Refusal :=
  runCommand (.command (.registerReadHandler d lo hi h)) (registerHandler d .read lo.toNat hi h) s

/-- 0x03 (40_address_space.md R201). -/
def execRegisterWriteHandler (d : Domain) (lo : Word) (hi : Nat) (h : Handler) (s : State) :
    Host.Outcome State Fault Refusal :=
  runCommand (.command (.registerWriteHandler d lo hi h)) (registerHandler d .write lo.toNat hi h) s

/-! ### Reads and writes -/

/-- 0x10 (40_address_space.md R208). -/
def execReadByte (d : Domain) (va : Word) (s : State) : Host.Outcome State Fault Refusal :=
  runCommand (.command (.readByte d va)) (readCommand d .w8 va) s

/-- 0x11 (40_address_space.md R208). -/
def execReadHalf (d : Domain) (va : Word) (s : State) : Host.Outcome State Fault Refusal :=
  runCommand (.command (.readHalf d va)) (readCommand d .w16 va) s

/-- 0x12 (40_address_space.md R208). -/
def execReadWord (d : Domain) (va : Word) (s : State) : Host.Outcome State Fault Refusal :=
  runCommand (.command (.readWord d va)) (readCommand d .w32 va) s

/-- 0x13 (40_address_space.md R208). -/
def execReadDouble (d : Domain) (va : Word) (s : State) : Host.Outcome State Fault Refusal :=
  runCommand (.command (.readDouble d va)) (readCommand d .w64 va) s

/-- 0x18 (40_address_space.md R209). -/
def execWriteByte (d : Domain) (va : Word) (v : BitVec 8) (s : State) : Host.Outcome State Fault Refusal :=
  runCommand (.command (.writeByte d va v)) (writeCommand d .w8 va (v.setWidth 64)) s

/-- 0x19 (40_address_space.md R209). -/
def execWriteHalf (d : Domain) (va : Word) (v : BitVec 16) (s : State) : Host.Outcome State Fault Refusal :=
  runCommand (.command (.writeHalf d va v)) (writeCommand d .w16 va (v.setWidth 64)) s

/-- 0x1A (40_address_space.md R209). -/
def execWriteWord (d : Domain) (va : Word) (v : BitVec 32) (s : State) : Host.Outcome State Fault Refusal :=
  runCommand (.command (.writeWord d va v)) (writeCommand d .w32 va (v.setWidth 64)) s

/-- 0x1B (40_address_space.md R209). -/
def execWriteDouble (d : Domain) (va : Word) (v : BitVec 64) (s : State) : Host.Outcome State Fault Refusal :=
  runCommand (.command (.writeDouble d va v)) (writeCommand d .w64 va v) s

/-- The checks of a Quad access: the domain, then the alignment (40_address_space.md R210, 60_exceptions.md R403). -/
def quadCheck (d : Domain) (va : Word) (s : State) : Reply Unit :=
  match d with
  | .S => .raised (.quadSecondary va) s
  | .P => if va.toNat % 16 = 0 then .done () s else .raised (.misaligned .quad .P 16 va) s

/-- The four word reads of `ReadQuad`, in ascending order, the first in the low word (40_address_space.md R210). -/
def readQuad (d : Domain) (va : Word) (s : State) : Reply Result :=
  (quadCheck d va s).andThen fun _ s =>
  (memRead d .w32 va s).andThen fun w0 s =>
  (memRead d .w32 (va + 4) s).andThen fun w1 s =>
  (memRead d .w32 (va + 8) s).andThen fun w2 s =>
  (memRead d .w32 (va + 12) s).andThen fun w3 s =>
  .done (.quad (w3.setWidth 32 ++ w2.setWidth 32 ++ w1.setWidth 32 ++ w0.setWidth 32)) s

/-- The word `v[32k+31 : 32k]` of a Quad. -/
def quadWord (v : BitVec 128) (k : Nat) : BitVec 64 := (v.extractLsb' (32 * k) 32).setWidth 64

/-- The four word writes of `WriteQuad`, in ascending order (40_address_space.md R210). -/
def writeQuad (d : Domain) (va : Word) (v : BitVec 128) (s : State) : Reply Result :=
  (quadCheck d va s).andThen fun _ s =>
  (memWrite d .w32 va (quadWord v 0) s).andThen fun _ s =>
  (memWrite d .w32 (va + 4) (quadWord v 1) s).andThen fun _ s =>
  (memWrite d .w32 (va + 8) (quadWord v 2) s).andThen fun _ s =>
  (memWrite d .w32 (va + 12) (quadWord v 3) s).noResult

/-- 0x14 (40_address_space.md R210). -/
def execReadQuad (d : Domain) (va : Word) (s : State) : Host.Outcome State Fault Refusal :=
  runCommand (.command (.readQuad d va)) (readQuad d va) s

/-- 0x1C (40_address_space.md R210). -/
def execWriteQuad (d : Domain) (va : Word) (v : BitVec 128) (s : State) : Host.Outcome State Fault Refusal :=
  runCommand (.command (.writeQuad d va v)) (writeQuad d va v) s

/-! ### Queries -/

/-- 0x20 (40_address_space.md R206). -/
def execTranslateVirtualAddress (d : Domain) (va : Word) (s : State) : Host.Outcome State Fault Refusal :=
  runCommand (.command (.translateVirtualAddress d va)) (fun s => .done (.word (translate d va)) s) s

/-- `ValidCodeRegion` (40_address_space.md R213): the page is mapped, to a store of `CODE(d)`. -/
def validCode (d : Domain) (va : Word) (s : State) : Bool :=
  match (s.space d).pageEntry (pageOf (translate d va)) with
  | some e => isCodeStore d e.store
  | none => false

/-- 0x21 (40_address_space.md R213). -/
def execValidCodeRegion (d : Domain) (va : Word) (s : State) : Host.Outcome State Fault Refusal :=
  runCommand (.command (.validCodeRegion d va)) (fun s => .done (.bool (validCode d va s)) s) s

/-! ### The default map (20_memory.md R100) -/

/-- `MAP`, as the registrations of system assembly (20_memory.md R100, 70_reset_and_hazards.md R460 steps 2 and 3).
The registrations of out-of-scope peripherals are not part of R100. -/
def defaultMap : List Instr :=
  [ .registerRegion .P 0x00000000 0x02000000 0x01FFFFFF .mainRam,
    .registerRegion .P 0x70000000 0x70004000 0x00003FFF .scratch,
    .registerRegion .P 0x1FC00000 0x20000000 0x003FFFFF .bootRom,
    .registerRegion .S 0x00000000 0x00200000 0x001FFFFF .iopRam,
    .registerRegion .S 0x1FC00000 0x20000000 0x003FFFFF .bootRom,
    .registerReadHandler .S 0x1F801080 0x1F801100 .dma,
    .registerReadHandler .S 0x1F801500 0x1F801580 .dma,
    .registerReadHandler .S 0x1D000000 0x1D000070 .sif,
    .registerReadHandler .P 0x1000F200 0x1000F270 .sif,
    .registerWriteHandler .S 0x1F801080 0x1F801100 .dma,
    .registerWriteHandler .S 0x1F801500 0x1F801580 .dma,
    .registerWriteHandler .S 0x1D000000 0x1D000070 .sif,
    .registerWriteHandler .P 0x1000F200 0x1000F270 .sif ]

end Sys2Proof.Machine
end

