-- ==== Sys2Proof/Machine/DmaEngine.lean ====
section
/-! DEFINITION. The DMA transfer engine and its commands 0x30 to 0x33 (42_dma_transfer.md, 70_reset_and_hazards.md
R450, 41_dma_registers.md R240). -/

namespace Sys2Proof.Machine

/-- A channel at the end of its transfer: the enable bit and the latch clear, the rest stays
(42_dma_transfer.md R330). -/
def Channel.ended (ch : Channel) : Channel :=
  { ch with control := ch.control &&& ~~~chcrEnMask, endTransfer := false }

/-- The calls at the end of a transfer, after its flag is set: a request when the half's flags meet its masks, then
the audio notification of a streaming channel (42_dma_transfer.md R330, 60_exceptions.md R413). -/
def endEvents (c : Fin 13) (s : State) : List Event :=
  (if (s.latch (halfOf c)).pending then [Event.irqRequest] else []) ++
    (if s.kind c = .streaming then [Event.audioNotify c] else [])

/-- `EndTransfer(c)` (42_dma_transfer.md R330). -/
def endTransfer (c : Fin 13) (s : State) : State :=
  let s := s.setChan c (s.chan c).ended
  let s := s.setLatch (halfOf c) ((s.latch (halfOf c)).setFlag (idxOf c))
  s.emitAll (endEvents c s)

/-- `StreamStep(c)` (42_dma_transfer.md R305). -/
def streamStep (c : Fin 13) (s : State) : Reply Unit :=
  if (s.chan c).count = 0 then .done () (endTransfer c s)
  else
    let s := s.setChan c { s.chan c with count := (s.chan c).count - 1 }
    .done () (if (s.chan c).count = 0 then endTransfer c s else s)

/-- A channel after one data word (42_dma_transfer.md R312, R322): `base` wraps in 24 bits. -/
def Channel.advance (ch : Channel) : Channel :=
  { ch with base := (ch.base + 4) &&& baseMask, count := ch.count - 1 }

/-- A channel after a tag (42_dma_transfer.md R311, R321). -/
def Channel.loadTag (ch : Channel) (lo : Word) (count : BitVec 16) (tag : Word) : Channel :=
  { ch with
    base := lo &&& baseMask
    count := count
    tag := tag
    endTransfer := ch.endTransfer || tagEnds lo }

/-- `OutTag(c)` (42_dma_transfer.md R311): stalls unless two words fit. -/
def outTag (c : Fin 13) (s : State) : Reply Unit :=
  if s.hasRoom .side0 2 then
    let T := (s.chan c).tag
    (memRead .S .w32 T s).andThen fun lo s =>
    (memRead .S .w32 (T + 4) s).andThen fun hi s =>
    (memRead .S .w32 (T + 8) s).andThen fun p0 s =>
    (memRead .S .w32 (T + 12) s).andThen fun p1 s =>
      let s := s.append .side0 [p0.setWidth 32, p1.setWidth 32]
      .done () (s.setChan c
        ((s.chan c).loadTag (lo.setWidth 32) ((roundup4 (hi.setWidth 32)).setWidth 16) (T + 16)))
  else .done () s

/-- `OutData(c)` (42_dma_transfer.md R312): stalls unless one word fits. -/
def outData (c : Fin 13) (s : State) : Reply Unit :=
  if s.hasRoom .side0 1 then
    (memRead .S .w32 (s.chan c).base s).andThen fun w s =>
      let s := s.append .side0 [w.setWidth 32]
      .done () (s.setChan c (s.chan c).advance)
  else .done () s

/-- `OutStep(c)` (42_dma_transfer.md R310, R313). -/
def outStep (c : Fin 13) (s : State) : Reply Unit :=
  if (s.chan c).count ≠ 0 then outData c s
  else if (s.chan c).endTransfer then .done () (endTransfer c s)
  else outTag c s

/-- `InTag(c)` (42_dma_transfer.md R321): stalls until four words are queued; the last two are padding. -/
def inTag (c : Fin 13) (s : State) : Reply Unit :=
  match s.fifo .side1 with
  | lo :: hi :: _ :: _ :: rest =>
    let s := s.setFifo .side1 rest
    .done () (s.setChan c ((s.chan c).loadTag lo (hi.setWidth 16) (s.chan c).tag))
  | _ => .done () s

/-- `InData(c)` (42_dma_transfer.md R322): stalls on an empty FIFO; the word is popped before the write. -/
def inData (c : Fin 13) (s : State) : Reply Unit :=
  match s.fifo .side1 with
  | [] => .done () s
  | w :: rest =>
    (memWrite .S .w32 (s.chan c).base (w.setWidth 64) (s.setFifo .side1 rest)).andThen fun _ s =>
      .done () (s.setChan c (s.chan c).advance)

/-- `InStep(c)` (42_dma_transfer.md R320, R323). -/
def inStep (c : Fin 13) (s : State) : Reply Unit :=
  if (s.chan c).count ≠ 0 then inData c s
  else if (s.chan c).endTransfer then .done () (endTransfer c s)
  else inTag c s

/-- `Step(c)` (42_dma_transfer.md R303). -/
def stepChannel (c : Fin 13) (s : State) : Reply Unit :=
  match s.kind c with
  | .streaming => streamStep c s
  | .outbound => outStep c s
  | .inbound => inStep c s
  | .unimplemented => .raised (.unmodelledChannel c) s

/-- The channels in ascending order (42_dma_transfer.md R300). -/
def allChannels : List (Fin 13) := [0, 1, 2, 3, 4, 5, 6, 7, 8, 9, 10, 11, 12]

/-- The loop of `Run` (42_dma_transfer.md R300): each channel that is eligible when it is reached makes one step; a
raise stops the rest. -/
def runChannels (cs : List (Fin 13)) (s : State) : Reply Unit :=
  match cs with
  | [] => .done () s
  | c :: cs =>
    if s.eligible c then (stepChannel c s).andThen fun _ s => runChannels cs s
    else runChannels cs s

/-- `Reset` (70_reset_and_hazards.md R450); what it leaves is R451. -/
def resetDma (s : State) : State :=
  { s with
    ch := Vector.replicate 13 Channel.zero
    dpcr0 := Config.dpcrReset
    dpcr1 := Config.dpcr2Reset
    latch0 := Latch.zero
    latch1 := Latch.zero
    dmacen := 0
    dmacinten := 0 }

/-- 0x30 (70_reset_and_hazards.md R450). -/
def execDmaReset (s : State) : Host.Outcome State Fault Refusal :=
  runCommand (.command .dmaReset) (fun s => .done .none (resetDma s)) s

/-- 0x31 (42_dma_transfer.md R300): `cycles` decides nothing. -/
def execDmaRun (cycles : Nat) (s : State) : Host.Outcome State Fault Refusal :=
  runCommand (.command (.dmaRun cycles)) (fun s => (runChannels allChannels s).noResult) s

/-- 0x32 (41_dma_registers.md R240). -/
def execDmaReadRegister (w : Width) (a : Word) (s : State) : Host.Outcome State Fault Refusal :=
  runCommand (.command (.dmaReadRegister w a)) (fun s => (dmaRead w a s).andThen fun v s => .done (resultOf w v) s) s

/-- 0x33 (41_dma_registers.md R240). -/
def execDmaWriteRegister (w : Width) (a : Word) (data : BitVec 64) (s : State) : Host.Outcome State Fault Refusal :=
  runCommand (.command (.dmaWriteRegister w a data)) (fun s => (dmaWrite w a data s).noResult) s

end Sys2Proof.Machine
end

