-- ==== Sys2Proof/Machine/Mmio.lean ====
section
/-! DEFINITION. The register rows of spec/opcode_table.json: `LD` and `ST` of a DMA controller register on domain S
and of a SIF register on either domain. Each is the address-space access of its width at the register's address
(30_encoding.md R140 and R147; log 10), so it reaches the register through the handler window.
A fault records the row itself, `i` below. -/

namespace Sys2Proof.Machine

/-- A read row at a controller register. -/
def loadCtrlRow (i : Instr) (r : CtrlReg) (s : State) : Host.Outcome State Fault Refusal :=
  runCommand (.command i) (readCommand .S .w32 r.addr) s

/-- A write row at a controller register. -/
def storeCtrlRow (i : Instr) (r : CtrlReg) (v : Word) (s : State) : Host.Outcome State Fault Refusal :=
  runCommand (.command i) (writeCommand .S .w32 r.addr (v.setWidth 64)) s

/-- A read row at a channel register: 16 bits for BCR.count, else 32 (30_encoding.md R125). -/
def loadChanRow (i : Instr) (r : ChanReg) (slot : BitVec 4) (s : State) : Host.Outcome State Fault Refusal :=
  runCommand (.command i) (readCommand .S r.width (channelAddr slot r.off)) s

/-- A write row at a channel register. -/
def storeChanRow (i : Instr) (r : ChanReg) (slot : BitVec 4) (v : BitVec 64) (s : State) :
    Host.Outcome State Fault Refusal :=
  runCommand (.command i) (writeCommand .S r.width (channelAddr slot r.off) v) s

/-- A read row at a SIF register. -/
def loadSifRow (i : Instr) (d : Domain) (r : SifReg) (s : State) : Host.Outcome State Fault Refusal :=
  runCommand (.command i) (readCommand d .w32 (SifReg.addr d r)) s

/-- A write row at a SIF register. -/
def storeSifRow (i : Instr) (d : Domain) (r : SifReg) (v : Word) (s : State) : Host.Outcome State Fault Refusal :=
  runCommand (.command i) (writeCommand d .w32 (SifReg.addr d r) (v.setWidth 64)) s

/-- Read DPCR (41_dma_registers.md R260). -/
def execLdDpcr (s : State) : Host.Outcome State Fault Refusal := loadCtrlRow .ldDpcr .dpcr s

/-- Write DPCR (41_dma_registers.md R261). -/
def execStDpcr (v : Word) (s : State) : Host.Outcome State Fault Refusal := storeCtrlRow (.stDpcr v) .dpcr v s

/-- Read DICR (41_dma_registers.md R272). -/
def execLdDicr (s : State) : Host.Outcome State Fault Refusal := loadCtrlRow .ldDicr .dicr s

/-- Write DICR (41_dma_registers.md R271). -/
def execStDicr (v : Word) (s : State) : Host.Outcome State Fault Refusal := storeCtrlRow (.stDicr v) .dicr v s

/-- Read DPCR2 (41_dma_registers.md R260). -/
def execLdDpcr2 (s : State) : Host.Outcome State Fault Refusal := loadCtrlRow .ldDpcr2 .dpcr2 s

/-- Write DPCR2 (41_dma_registers.md R261). -/
def execStDpcr2 (v : Word) (s : State) : Host.Outcome State Fault Refusal := storeCtrlRow (.stDpcr2 v) .dpcr2 v s

/-- Read DICR2 (41_dma_registers.md R272). -/
def execLdDicr2 (s : State) : Host.Outcome State Fault Refusal := loadCtrlRow .ldDicr2 .dicr2 s

/-- Write DICR2 (41_dma_registers.md R271). -/
def execStDicr2 (v : Word) (s : State) : Host.Outcome State Fault Refusal := storeCtrlRow (.stDicr2 v) .dicr2 v s

/-- Read DMACEN (41_dma_registers.md R263). -/
def execLdDmacen (s : State) : Host.Outcome State Fault Refusal := loadCtrlRow .ldDmacen .dmacen s

/-- Write DMACEN (41_dma_registers.md R263). -/
def execStDmacen (v : Word) (s : State) : Host.Outcome State Fault Refusal := storeCtrlRow (.stDmacen v) .dmacen v s

/-- Read DMACINTEN (41_dma_registers.md R264). -/
def execLdDmacinten (s : State) : Host.Outcome State Fault Refusal := loadCtrlRow .ldDmacinten .dmacinten s

/-- Write DMACINTEN (41_dma_registers.md R264). -/
def execStDmacinten (v : Word) (s : State) : Host.Outcome State Fault Refusal :=
  storeCtrlRow (.stDmacinten v) .dmacinten v s

/-- Read MADR (41_dma_registers.md R241). -/
def execLdMadr (slot : BitVec 4) (s : State) : Host.Outcome State Fault Refusal :=
  loadChanRow (.ldMadr slot) .madr slot s

/-- Write MADR (41_dma_registers.md R242). -/
def execStMadr (slot : BitVec 4) (v : BitVec 32) (s : State) : Host.Outcome State Fault Refusal :=
  storeChanRow (.stMadr slot v) .madr slot (v.setWidth 64) s

/-- Read BCR (41_dma_registers.md R243). -/
def execLdBcr (slot : BitVec 4) (s : State) : Host.Outcome State Fault Refusal := loadChanRow (.ldBcr slot) .bcr slot s

/-- Write BCR (41_dma_registers.md R244). -/
def execStBcr (slot : BitVec 4) (v : BitVec 32) (s : State) : Host.Outcome State Fault Refusal :=
  storeChanRow (.stBcr slot v) .bcr slot (v.setWidth 64) s

/-- Read BCR.count (41_dma_registers.md R245). -/
def execLdBcrCount (slot : BitVec 4) (s : State) : Host.Outcome State Fault Refusal :=
  loadChanRow (.ldBcrCount slot) .bcrCount slot s

/-- Write BCR.count (41_dma_registers.md R246). -/
def execStBcrCount (slot : BitVec 4) (v : BitVec 16) (s : State) : Host.Outcome State Fault Refusal :=
  storeChanRow (.stBcrCount slot v) .bcrCount slot (v.setWidth 64) s

/-- Read CHCR (41_dma_registers.md R247). -/
def execLdChcr (slot : BitVec 4) (s : State) : Host.Outcome State Fault Refusal :=
  loadChanRow (.ldChcr slot) .chcr slot s

/-- Write CHCR (41_dma_registers.md R248). -/
def execStChcr (slot : BitVec 4) (v : BitVec 32) (s : State) : Host.Outcome State Fault Refusal :=
  storeChanRow (.stChcr slot v) .chcr slot (v.setWidth 64) s

/-- Read TADR (41_dma_registers.md R249). -/
def execLdTadr (slot : BitVec 4) (s : State) : Host.Outcome State Fault Refusal :=
  loadChanRow (.ldTadr slot) .tadr slot s

/-- Write TADR (41_dma_registers.md R250). -/
def execStTadr (slot : BitVec 4) (v : BitVec 32) (s : State) : Host.Outcome State Fault Refusal :=
  storeChanRow (.stTadr slot v) .tadr slot (v.setWidth 64) s

/-- Read MSCOM from side P (43_sif.md R359). -/
def execLdMscomP (s : State) : Host.Outcome State Fault Refusal := loadSifRow .ldMscomP .P .mscom s

/-- Write MSCOM from side P (43_sif.md R360). -/
def execStMscomP (v : Word) (s : State) : Host.Outcome State Fault Refusal := storeSifRow (.stMscomP v) .P .mscom v s

/-- Read SMCOM from side P (43_sif.md R359). -/
def execLdSmcomP (s : State) : Host.Outcome State Fault Refusal := loadSifRow .ldSmcomP .P .smcom s

/-- Write SMCOM from side P (43_sif.md R361). -/
def execStSmcomP (v : Word) (s : State) : Host.Outcome State Fault Refusal := storeSifRow (.stSmcomP v) .P .smcom v s

/-- Read MSFLAG from side P (43_sif.md R359). -/
def execLdMsflagP (s : State) : Host.Outcome State Fault Refusal := loadSifRow .ldMsflagP .P .msflag s

/-- Write MSFLAG from side P (43_sif.md R362). -/
def execStMsflagP (v : Word) (s : State) : Host.Outcome State Fault Refusal := storeSifRow (.stMsflagP v) .P .msflag v s

/-- Read SMFLAG from side P (43_sif.md R359). -/
def execLdSmflagP (s : State) : Host.Outcome State Fault Refusal := loadSifRow .ldSmflagP .P .smflag s

/-- Write SMFLAG from side P (43_sif.md R363). -/
def execStSmflagP (v : Word) (s : State) : Host.Outcome State Fault Refusal := storeSifRow (.stSmflagP v) .P .smflag v s

/-- Read CTRL from side P (43_sif.md R359). -/
def execLdCtrlP (s : State) : Host.Outcome State Fault Refusal := loadSifRow .ldCtrlP .P .ctrl s

/-- Write CTRL from side P (43_sif.md R364). -/
def execStCtrlP (v : Word) (s : State) : Host.Outcome State Fault Refusal := storeSifRow (.stCtrlP v) .P .ctrl v s

/-- Read BD6 from side P (43_sif.md R359). -/
def execLdBd6P (s : State) : Host.Outcome State Fault Refusal := loadSifRow .ldBd6P .P .bd6 s

/-- Write BD6 from side P (43_sif.md R365). -/
def execStBd6P (v : Word) (s : State) : Host.Outcome State Fault Refusal := storeSifRow (.stBd6P v) .P .bd6 v s

/-- Read MSCOM from side S (43_sif.md R359). -/
def execLdMscomS (s : State) : Host.Outcome State Fault Refusal := loadSifRow .ldMscomS .S .mscom s

/-- Write MSCOM from side S (43_sif.md R360). -/
def execStMscomS (v : Word) (s : State) : Host.Outcome State Fault Refusal := storeSifRow (.stMscomS v) .S .mscom v s

/-- Read SMCOM from side S (43_sif.md R359). -/
def execLdSmcomS (s : State) : Host.Outcome State Fault Refusal := loadSifRow .ldSmcomS .S .smcom s

/-- Write SMCOM from side S (43_sif.md R361). -/
def execStSmcomS (v : Word) (s : State) : Host.Outcome State Fault Refusal := storeSifRow (.stSmcomS v) .S .smcom v s

/-- Read MSFLAG from side S (43_sif.md R359). -/
def execLdMsflagS (s : State) : Host.Outcome State Fault Refusal := loadSifRow .ldMsflagS .S .msflag s

/-- Write MSFLAG from side S (43_sif.md R362). -/
def execStMsflagS (v : Word) (s : State) : Host.Outcome State Fault Refusal := storeSifRow (.stMsflagS v) .S .msflag v s

/-- Read SMFLAG from side S (43_sif.md R359). -/
def execLdSmflagS (s : State) : Host.Outcome State Fault Refusal := loadSifRow .ldSmflagS .S .smflag s

/-- Write SMFLAG from side S (43_sif.md R363). -/
def execStSmflagS (v : Word) (s : State) : Host.Outcome State Fault Refusal := storeSifRow (.stSmflagS v) .S .smflag v s

/-- Read CTRL from side S (43_sif.md R359). -/
def execLdCtrlS (s : State) : Host.Outcome State Fault Refusal := loadSifRow .ldCtrlS .S .ctrl s

/-- Write CTRL from side S (43_sif.md R364). -/
def execStCtrlS (v : Word) (s : State) : Host.Outcome State Fault Refusal := storeSifRow (.stCtrlS v) .S .ctrl v s

/-- Read BD6 from side S (43_sif.md R359). -/
def execLdBd6S (s : State) : Host.Outcome State Fault Refusal := loadSifRow .ldBd6S .S .bd6 s

/-- Write BD6 from side S (43_sif.md R365). -/
def execStBd6S (v : Word) (s : State) : Host.Outcome State Fault Refusal := storeSifRow (.stBd6S v) .S .bd6 v s

end Sys2Proof.Machine
end

