-- ==== Sys2Proof/Machine/Dispatch.lean ====
section
/-! DEFINITION. One arm per constructor of `Instr`, each a call of its meaning. -/

namespace Sys2Proof.Machine

def exec (i : Instr) (s : State) : Host.Outcome State Fault Refusal :=
  match i with
  | .registerRegion d vstart vend mask st => Sys2Proof.Machine.execRegisterRegion d vstart vend mask st s
  | .registerReadHandler d lo hi h => Sys2Proof.Machine.execRegisterReadHandler d lo hi h s
  | .registerWriteHandler d lo hi h => Sys2Proof.Machine.execRegisterWriteHandler d lo hi h s
  | .readByte d va => Sys2Proof.Machine.execReadByte d va s
  | .readHalf d va => Sys2Proof.Machine.execReadHalf d va s
  | .readWord d va => Sys2Proof.Machine.execReadWord d va s
  | .readDouble d va => Sys2Proof.Machine.execReadDouble d va s
  | .readQuad d va => Sys2Proof.Machine.execReadQuad d va s
  | .writeByte d va v => Sys2Proof.Machine.execWriteByte d va v s
  | .writeHalf d va v => Sys2Proof.Machine.execWriteHalf d va v s
  | .writeWord d va v => Sys2Proof.Machine.execWriteWord d va v s
  | .writeDouble d va v => Sys2Proof.Machine.execWriteDouble d va v s
  | .writeQuad d va v => Sys2Proof.Machine.execWriteQuad d va v s
  | .translateVirtualAddress d va => Sys2Proof.Machine.execTranslateVirtualAddress d va s
  | .validCodeRegion d va => Sys2Proof.Machine.execValidCodeRegion d va s
  | .dmaReset => Sys2Proof.Machine.execDmaReset s
  | .dmaRun cycles => Sys2Proof.Machine.execDmaRun cycles s
  | .dmaReadRegister w a => Sys2Proof.Machine.execDmaReadRegister w a s
  | .dmaWriteRegister w a data => Sys2Proof.Machine.execDmaWriteRegister w a data s
  | .writeSide0Fifo w => Sys2Proof.Machine.execWriteSide0Fifo w s
  | .writeSide1FifoWord w => Sys2Proof.Machine.execWriteSide1FifoWord w s
  | .writeSide1FifoWide v => Sys2Proof.Machine.execWriteSide1FifoWide v s
  | .readSide0Fifo => Sys2Proof.Machine.execReadSide0Fifo s
  | .readSide1Fifo => Sys2Proof.Machine.execReadSide1Fifo s
  | .getSide0FifoSize => Sys2Proof.Machine.execGetSide0FifoSize s
  | .getSide1FifoSize => Sys2Proof.Machine.execGetSide1FifoSize s
  | .sifReadRegister side reg => Sys2Proof.Machine.execSifReadRegister side reg s
  | .sifWriteMscom side v => Sys2Proof.Machine.execSifWriteMscom side v s
  | .sifWriteSmcom side v => Sys2Proof.Machine.execSifWriteSmcom side v s
  | .sifWriteMsflag side v => Sys2Proof.Machine.execSifWriteMsflag side v s
  | .sifWriteSmflag side v => Sys2Proof.Machine.execSifWriteSmflag side v s
  | .sifWriteCtrl side v => Sys2Proof.Machine.execSifWriteCtrl side v s
  | .sifWriteBd6 side v => Sys2Proof.Machine.execSifWriteBd6 side v s
  | .ldDpcr => Sys2Proof.Machine.execLdDpcr s
  | .stDpcr v => Sys2Proof.Machine.execStDpcr v s
  | .ldDicr => Sys2Proof.Machine.execLdDicr s
  | .stDicr v => Sys2Proof.Machine.execStDicr v s
  | .ldDpcr2 => Sys2Proof.Machine.execLdDpcr2 s
  | .stDpcr2 v => Sys2Proof.Machine.execStDpcr2 v s
  | .ldDicr2 => Sys2Proof.Machine.execLdDicr2 s
  | .stDicr2 v => Sys2Proof.Machine.execStDicr2 v s
  | .ldDmacen => Sys2Proof.Machine.execLdDmacen s
  | .stDmacen v => Sys2Proof.Machine.execStDmacen v s
  | .ldDmacinten => Sys2Proof.Machine.execLdDmacinten s
  | .stDmacinten v => Sys2Proof.Machine.execStDmacinten v s
  | .ldMadr slot => Sys2Proof.Machine.execLdMadr slot s
  | .stMadr slot v => Sys2Proof.Machine.execStMadr slot v s
  | .ldBcr slot => Sys2Proof.Machine.execLdBcr slot s
  | .stBcr slot v => Sys2Proof.Machine.execStBcr slot v s
  | .ldBcrCount slot => Sys2Proof.Machine.execLdBcrCount slot s
  | .stBcrCount slot v => Sys2Proof.Machine.execStBcrCount slot v s
  | .ldChcr slot => Sys2Proof.Machine.execLdChcr slot s
  | .stChcr slot v => Sys2Proof.Machine.execStChcr slot v s
  | .ldTadr slot => Sys2Proof.Machine.execLdTadr slot s
  | .stTadr slot v => Sys2Proof.Machine.execStTadr slot v s
  | .ldMscomP => Sys2Proof.Machine.execLdMscomP s
  | .stMscomP v => Sys2Proof.Machine.execStMscomP v s
  | .ldSmcomP => Sys2Proof.Machine.execLdSmcomP s
  | .stSmcomP v => Sys2Proof.Machine.execStSmcomP v s
  | .ldMsflagP => Sys2Proof.Machine.execLdMsflagP s
  | .stMsflagP v => Sys2Proof.Machine.execStMsflagP v s
  | .ldSmflagP => Sys2Proof.Machine.execLdSmflagP s
  | .stSmflagP v => Sys2Proof.Machine.execStSmflagP v s
  | .ldCtrlP => Sys2Proof.Machine.execLdCtrlP s
  | .stCtrlP v => Sys2Proof.Machine.execStCtrlP v s
  | .ldBd6P => Sys2Proof.Machine.execLdBd6P s
  | .stBd6P v => Sys2Proof.Machine.execStBd6P v s
  | .ldMscomS => Sys2Proof.Machine.execLdMscomS s
  | .stMscomS v => Sys2Proof.Machine.execStMscomS v s
  | .ldSmcomS => Sys2Proof.Machine.execLdSmcomS s
  | .stSmcomS v => Sys2Proof.Machine.execStSmcomS v s
  | .ldMsflagS => Sys2Proof.Machine.execLdMsflagS s
  | .stMsflagS v => Sys2Proof.Machine.execStMsflagS v s
  | .ldSmflagS => Sys2Proof.Machine.execLdSmflagS s
  | .stSmflagS v => Sys2Proof.Machine.execStSmflagS v s
  | .ldCtrlS => Sys2Proof.Machine.execLdCtrlS s
  | .stCtrlS v => Sys2Proof.Machine.execStCtrlS v s
  | .ldBd6S => Sys2Proof.Machine.execLdBd6S s
  | .stBd6S v => Sys2Proof.Machine.execStBd6S v s

end Sys2Proof.Machine
end

