-- ==== Sys2Proof/Machine/Step.lean ====
section
/-! DEFINITION. One step: the oldest item at the command port runs as one atomic command (20_memory.md R88, R90;
log 1). -/

namespace Sys2Proof.Machine

/-- The state with the oldest item taken from the port. -/
def State.takeItem (s : State) : State := { s with port := s.port.tail }

/-- One step. With nothing at the port the block does nothing: it acts only on commands (00_scope.md R2). A frozen
block takes the item and does nothing (10_state.md R60). An unassigned selector is `Refuse(UNKNOWN_COMMAND)`
(30_encoding.md R145), after the FAULT check (60_exceptions.md R403). -/
def step (s : State) : Host.Outcome State Fault Refusal :=
  match s.port with
  | [] => .next s
  | item :: _ =>
    match s.fault, decode item with
    | some _, _ => .next s.takeItem
    | none, .ok i => exec i s.takeItem
    | none, .error (.unknownSelector sel) => runCommand (.unassigned item) (.raised (.unknownCommand sel)) s.takeItem
    | none, .error _ => .refused .malformedItem

/-- The state in which the next step runs the instruction of a table word (log 1, log 3): its item stands first at
the port. -/
def State.withFetchWord (s : State) (nbits w : Nat) : State := { s with port := tableItem nbits w :: s.port }

end Sys2Proof.Machine
end

