-- ==== Sys2Proof/Safety.lean ====
section
/-! DEFINITION. What a good state and a good run are, in the terms the statements use. -/

namespace Sys2Proof.Machine

/-! ### Good states -/

/-- No fault is recorded: the block executes commands (10_state.md R60). -/
abbrev State.Live (s : State) : Prop := s.fault = none

/-- A registered window of pages: page-aligned at both bounds (10_state.md R36 c), inside the address space, and
every page inside its store (R36 d). -/
def Region.Good (r : Region) : Prop :=
  r.vstart % Config.pageSize = 0 ∧ r.vend % Config.pageSize = 0 ∧ r.vstart < r.vend ∧ r.vend ≤ 2 ^ 32 ∧
  ∀ p, p % Config.pageSize = 0 → r.covers p = true → r.pageOff p + Config.pageSize ≤ Config.storeSize r.store

/-- Two regions share no page: no entry aliases two stores (10_state.md R36 b, 40_address_space.md R200). -/
def Region.Apart (r r' : Region) : Prop := r.vend ≤ r'.vstart ∨ r'.vend ≤ r.vstart

/-- A handler window is not empty (40_address_space.md R201). -/
def Window.Good (w : Window) : Prop := w.lo < w.hi

/-- Two handler windows share no address (40_address_space.md R201). -/
def Window.Apart (w w' : Window) : Prop := w.hi ≤ w'.lo ∨ w'.hi ≤ w.lo

/-- An address space that registrations can make (10_state.md R36). -/
structure AddrSpace.Good (as : AddrSpace) : Prop where
  regions_good : ∀ r ∈ as.regions, r.Good
  regions_apart : as.regions.Pairwise Region.Apart
  read_good : ∀ w ∈ as.readHandlers, w.Good
  read_apart : as.readHandlers.Pairwise Window.Apart
  write_good : ∀ w ∈ as.writeHandlers, w.Good
  write_apart : as.writeHandlers.Pairwise Window.Apart

/-- A store's written bytes: canonical form, inside the store. -/
def Memory.Good (st : Store) (m : Memory) : Prop :=
  Memory.wf m = true ∧ ∀ cell ∈ m, cell.1 < Config.storeSize st

/-- A FIFO holds at most `FIFO_DEPTH` words (10_state.md R55). -/
def State.FifoFits (s : State) (side : FifoSide) : Prop :=
  ∀ k, s.params.fifoDepth = some k → (s.fifo side).length ≤ k

/-- The invariant of the block: what registrations establish (10_state.md R36), stores in canonical form, `base`
with its upper 8 bits 0 (R40), the flag of no channel never set (41_dma_registers.md R270), FIFOs within their
depth (R55). -/
structure Inv (s : State) : Prop where
  space_good : ∀ d, (s.space d).Good
  stores_good : ∀ st, Memory.Good st (s.stores.get st)
  base_masked : ∀ c, (s.chan c).base.toNat < 2 ^ 24
  no_seventh_flag : (s.latch .h1).flags.getLsbD 6 = false
  fifo_fits : ∀ side, s.FifoFits side

/-- The events that call the interrupt controller or the audio unit (60_exceptions.md R410, R411). -/
def Event.isInterrupt : Event → Bool
  | .irqRequest => true
  | .audioNotify _ => true
  | .diag _ _ _ _ _ => false
  | .handlerRead _ _ _ _ => false
  | .handlerWrite _ _ _ _ _ => false

/-- What every part of a command keeps, registrations apart: both address spaces, the parameters, the port, FAULT
(which `runCommand` records), and the events already sent (10_state.md R65, R66). -/
structure Keeps (s t : State) : Prop where
  asP : t.asP = s.asP
  asS : t.asS = s.asS
  params : t.params = s.params
  port : t.port = s.port
  fault : t.fault = s.fault
  out : ∃ es, t.out = s.out ++ es

/-- The events sent between two states call no interrupt controller and no audio unit. -/
def NoInterruptSent (s t : State) : Prop := ∃ es, t.out = s.out ++ es ∧ ∀ e ∈ es, e.isInterrupt = false

/-! ### Good runs -/

/-- The state after commands that all answer a next state. -/
def execAll (is : List Instr) (s : State) : Option State :=
  match is with
  | [] => some s
  | i :: is =>
    match exec i s with
    | .next t => execAll is t
    | .fault _ => none
    | .refused _ => none

/-- The only channel that steps in a `Run` is `c` (42_dma_transfer.md R300). -/
def OnlyEligible (c : Fin 13) (s : State) : Prop := ∀ c', s.eligible c' = decide (c' = c)

/-- The first channel that steps in a `Run` is `c` (42_dma_transfer.md R300). -/
def LowestEligible (c : Fin 13) (s : State) : Prop := s.eligible c = true ∧ ∀ c', c' < c → s.eligible c' = false

/-- A fault that a command raised: its cause, with the command and its operands (10_state.md R60). -/
def raisedBy (i : Instr) (c : Cause) : Option FaultRecord := some { cause := c, command := .command i }

/-- The command raises, and changes nothing else; nothing is returned. -/
def Raises (i : Instr) (c : Cause) (s : State) : Prop :=
  exec i s = .next { s with fault := raisedBy i c, result := .none }

/-- Two commands leave the same state, but that a fault records the command that raised it. -/
def SameEffect (i j : Instr) (s : State) : Prop :=
  ∃ t u, exec i s = .next t ∧ exec j s = .next u ∧ u = { t with fault := u.fault } ∧
    u.fault.map (·.cause) = t.fault.map (·.cause)

/-! ### Steps of a `Run` -/

/-- The step of channel `c` leaves `t`; so does a `Run` in which no other channel steps. `Run` steps its channels with
nothing returned yet (log 5). -/
def StepLeaves (c : Fin 13) (s t : State) : Prop :=
  stepChannel c { s with result := .none } = .done () t ∧ (OnlyEligible c s → ∀ n, exec (.dmaRun n) s = .next t)

/-- The step of channel `c` raises and leaves `t`; so does a `Run` in which `c` is the first to step: it records the
fault, and no later channel steps (42_dma_transfer.md R300). -/
def StepRaises (c : Fin 13) (e : Cause) (s t : State) : Prop :=
  stepChannel c { s with result := .none } = .raised e t ∧
    (LowestEligible c s → ∀ n, exec (.dmaRun n) s = .next { t with fault := raisedBy (.dmaRun n) e })

/-- The steps that channels make in turn (42_dma_transfer.md R300): each one that is eligible when it is reached makes
one step; a step that raises is the last. The states are those before the first and after the last. -/
inductive RunSteps : List (Fin 13) → State → State → Option Cause → Prop
  | finished (s : State) : RunSteps [] s s none
  | passed {c : Fin 13} {cs : List (Fin 13)} {s t : State} {e : Option Cause} :
      s.eligible c = false → RunSteps cs s t e → RunSteps (c :: cs) s t e
  | stepped {c : Fin 13} {cs : List (Fin 13)} {s u t : State} {e : Option Cause} :
      s.eligible c = true → stepChannel c s = .done () u → RunSteps cs u t e → RunSteps (c :: cs) s t e
  | stopped {c : Fin 13} {cs : List (Fin 13)} {s t : State} {e : Cause} :
      s.eligible c = true → stepChannel c s = .raised e t → RunSteps (c :: cs) s t (some e)

/-! ### Runs of FIFO commands -/

/-- The words that a command pushes on a FIFO, in order (43_sif.md R351, R352). -/
def pushedBy : FifoSide → Instr → List Word
  | .side0, .writeSide0Fifo w => [w]
  | .side1, .writeSide1FifoWord w => [w]
  | .side1, .writeSide1FifoWide v => [v.extractLsb' 0 32, v.extractLsb' 32 32]
  | _, _ => []

/-- The words that commands push on a FIFO, in order. -/
def pushedWords (side : FifoSide) (is : List Instr) : List Word := is.flatMap (pushedBy side)

/-- The command that pops a FIFO (43_sif.md R353). -/
def popOf : FifoSide → Instr
  | .side0 => .readSide0Fifo
  | .side1 => .readSide1Fifo

/-- The word that a command popped from a FIFO, when it has left the block in `t`. -/
def poppedBy (side : FifoSide) (i : Instr) (t : State) : List Word :=
  match decide (i = popOf side), t.result with
  | true, .word w => [w]
  | _, _ => []

/-- The words that the pops of a run return, in order, with the state at its end. -/
def poppedWords (side : FifoSide) (is : List Instr) (s : State) : Option (List Word × State) :=
  match is with
  | [] => some ([], s)
  | i :: is =>
    match exec i s with
    | .next t => (poppedWords side is t).map fun r => (poppedBy side i t ++ r.1, r.2)
    | .fault _ => none
    | .refused _ => none

/-! ### What a command leaves, in the terms of the spec -/

/-- Room for `n` more words in a FIFO: `FIFO_DEPTH - size >= n` (42_dma_transfer.md R311, R312). -/
def State.Room (s : State) (side : FifoSide) (n : Nat) : Prop :=
  ∀ k, s.params.fifoDepth = some k → (s.fifo side).length + n ≤ k

/-- The word at an offset of a store: four bytes, little-endian (20_memory.md R80). -/
def State.wordAt (s : State) (st : Store) (off : Nat) : Word :=
  s.byteAt st (off + 3) ++ s.byteAt st (off + 2) ++ s.byteAt st (off + 1) ++ s.byteAt st off

/-- The bytes of a word, the lowest first (20_memory.md R80). -/
def wordBytes (v : Word) : List Byte :=
  [v.extractLsb' 0 8, v.extractLsb' 8 8, v.extractLsb' 16 8, v.extractLsb' 24 8]

/-- Every byte of memory outside `n` bytes at an offset of a store reads in `t` as in `s`. -/
def MemorySameOutside (st : Store) (off n : Nat) (s t : State) : Prop :=
  ∀ st' off', (st' ≠ st ∨ off' < off ∨ off + n ≤ off') → t.byteAt st' off' = s.byteAt st' off'

/-- `t` is `s` after a store command: the bytes stand in the store from an offset on, every other byte of memory
and every other piece of state is as before, and nothing is returned. -/
structure BytesStored (st : Store) (off : Nat) (bs : List Byte) (s t : State) : Prop where
  stored : ∀ (i : Nat) (h : i < bs.length), t.byteAt st (off + i) = bs[i]
  outside : MemorySameOutside st off bs.length s t
  rest : t = { s with stores := t.stores, result := .none }

/-- The word that a latch read returns: master flag, flags, low (30_encoding.md R131, 10_state.md R48). -/
def Latch.word (l : Latch) : Word :=
  BitVec.ofBool (l.low.getLsbD 15 || (l.low.getLsbD 23 && (l.low.extractLsb' 16 7 &&& l.flags != 0))) ++ l.flags ++ l.low

/-- The latch that a write leaves: the low 24 bits stored, a flag cleared where the data has a 1, bit 31 not looked
at (41_dma_registers.md R271). -/
def Latch.afterWrite (l : Latch) (v : Word) : Latch :=
  { low := v.extractLsb' 0 24, flags := l.flags &&& ~~~(v.extractLsb' 24 7) }

/-- A word read on domain S answers `w`, and the block stays live in `t`. -/
def ReadsWord (a w : Word) (s t : State) : Prop :=
  exec (.readWord .S a) s = .next t ∧ t.result = .word w ∧ t.Live

/-- Word reads on domain S of consecutive words, from an address on. -/
def ReadsWords (a : Word) (ws : List Word) (s t : State) : Prop :=
  match ws with
  | [] => t = s
  | w :: ws => ∃ u, ReadsWord a w s u ∧ ReadsWords (a + 4) ws u t

/-- The word that domain S reads at an address on the fast path. -/
def FastWord (a w : Word) (s : State) : Prop :=
  a.toNat % 4 = 0 ∧ ∃ st off perm, lookup .S .read a s = .fast st off perm ∧ s.wordAt st off = w

/-- `t` is `s` after `EndTransfer(c)` (42_dma_transfer.md R330): the enable bit and `end_transfer` clear, the flag
set, the two calls made when their conditions hold, and nothing else changed. -/
structure TransferEnded (c : Fin 13) (s t : State) : Prop where
  channel : t.chan c = { s.chan c with control := (s.chan c).control &&& 0xFEFFFFFF, endTransfer := false }
  other_channels : ∀ c', c' ≠ c → t.chan c' = s.chan c'
  flags : ∀ i, (t.latch (halfOf c)).flags.getLsbD i =
    (decide (i = idxOf c) || (s.latch (halfOf c)).flags.getLsbD i)
  low : (t.latch (halfOf c)).low = (s.latch (halfOf c)).low
  other_half : ∀ h, h ≠ halfOf c → t.latch h = s.latch h
  events : t.out = s.out ++
    ((if (t.latch (halfOf c)).flags &&& (t.latch (halfOf c)).low.extractLsb' 16 7 ≠ 0 then [Event.irqRequest] else []) ++
      (if s.kind c = .streaming then [Event.audioNotify c] else []))
  rest : t = { s with ch := t.ch, latch0 := t.latch0, latch1 := t.latch1, out := t.out, result := .none }

/-- The step of channel `c` is one that ends its transfer (42_dma_transfer.md R305, R313, R323). -/
def EndsNow (c : Fin 13) (s : State) : Prop :=
  (s.kind c = .streaming ∧ (s.chan c).count.toNat ≤ 1) ∨
  ((s.kind c = .outbound ∨ s.kind c = .inbound) ∧ (s.chan c).count = 0 ∧ (s.chan c).endTransfer = true)

/-- The count of a channel at zero, as the last step of a streaming channel makes it before it ends. -/
def State.zeroCount (s : State) (c : Fin 13) : State := { s with ch := s.ch.set c { s.chan c with count := 0 } }

/-- The address `i` words past `base`, in 24 bits (42_dma_transfer.md R312). -/
def wordsPast (base : Word) (i : Nat) : Word := (base + BitVec.ofNat 32 (4 * i)) &&& 0x00FFFFFF

/-- A tag with the data words it stands for (30_encoding.md R135, R136). -/
structure Link where
  w0 : Word
  w1 : Word
  p0 : Word
  p1 : Word
  data : List Word
deriving DecidableEq, Repr

/-- The tag ends the chain: bit 30 or bit 31 is set (42_dma_transfer.md R311, R321). -/
def Link.last (l : Link) : Bool := l.w0.getLsbD 30 || l.w0.getLsbD 31

/-- Only the last tag ends the chain (42_dma_transfer.md R332). -/
def ChainEnds (ls : List Link) : Prop :=
  match ls with
  | [] => False
  | [l] => l.last = true
  | l :: l' :: ls => l.last = false ∧ ChainEnds (l' :: ls)

/-- The steps of a chain before its end: one for each tag and one for each data word (70_reset_and_hazards.md R481). -/
def chainSteps (ls : List Link) : Nat := (ls.map fun l => 1 + l.data.length).sum

/-- Where the base of a channel stands after a tag's data: one word past the last one. -/
def Link.endBase (l : Link) : Word := wordsPast l.w0 l.data.length

/-- The count that an outbound tag gives: rounded up to a multiple of 4, 16 bits kept (42_dma_transfer.md R311). -/
def Link.outCount (l : Link) : Nat := (((l.w1 + 3) &&& 0xFFFFFFFC).setWidth 16 : BitVec 16).toNat

/-- The tag stands in memory at `T` and its data words from its base on. -/
structure LinkAt (T : Word) (l : Link) (s : State) : Prop where
  word0 : FastWord T l.w0 s
  word1 : FastWord (T + 4) l.w1 s
  word2 : FastWord (T + 8) l.p0 s
  word3 : FastWord (T + 12) l.p1 s
  length : l.data.length = l.outCount
  data : ∀ (i : Nat) (h : i < l.data.length), FastWord (wordsPast l.w0 i) l.data[i] s

/-- Tags in memory, 16 bytes apart, each with its data (42_dma_transfer.md R332). -/
def LinksAt (T : Word) (ls : List Link) (s : State) : Prop :=
  match ls with
  | [] => True
  | l :: ls => LinkAt T l s ∧ LinksAt (T + 16) ls s

/-- What an outbound chain pushes: each tag's payload and its data. -/
def outWords (ls : List Link) : List Word := ls.flatMap fun l => l.p0 :: l.p1 :: l.data

/-- What an inbound chain pops: each tag of four words and its data (42_dma_transfer.md R321, R322). -/
def inWords (ls : List Link) : List Word := ls.flatMap fun l => l.w0 :: l.w1 :: l.p0 :: l.p1 :: l.data

/-- The count that an inbound tag gives: not rounded, 16 bits kept (42_dma_transfer.md R321). -/
def Link.inCount (l : Link) : Nat := (l.w1.setWidth 16 : BitVec 16).toNat

/-- The word writes on domain S that an inbound tag's data make, in order (42_dma_transfer.md R322). -/
def Link.writes (l : Link) : List Instr := l.data.mapIdx fun i w => .writeWord .S (wordsPast l.w0 i) w

/-- The word writes of an inbound chain, in order. -/
def inWrites (ls : List Link) : List Instr := ls.flatMap Link.writes

end Sys2Proof.Machine
end

