-- ==== Sys2Proof/Certificates/Slice0/Obligations.lean ====
section
/-! DEFINITION. The statements about the block, one `def Obligations.<Name> : Prop` each. -/

open Sys2Proof Sys2Proof.Machine

/-! ## The machine as a whole -/

/-- 70_reset_and_hazards.md R452: the power-on state. R452 leaves the stores' contents unspecified: that a byte of a store
is the free power-on byte is the model's choice (log 6, and log 7 for the boot image). The reset value of DPCR is from
general knowledge by the spec's own mark (10_state.md R45; log 15). -/
def Obligations.PowerOnState : Prop :=
  (∀ c, State.reset.chan c = { base := 0, size := 0, count := 0, control := 0, tag := 0, endTransfer := false }) ∧
  State.reset.dpcr0 = 0x07654321 ∧ State.reset.dpcr1 = 0x07654321 ∧
  (∀ h, (State.reset.latch h).low = 0 ∧ (State.reset.latch h).flags = 0 ∧ (State.reset.latch h).masterFlag = false) ∧
  State.reset.dmacen = 0 ∧ State.reset.dmacinten = 0 ∧
  State.reset.sif.fifo0 = [] ∧ State.reset.sif.fifo1 = [] ∧
  State.reset.sif.mscom = 0 ∧ State.reset.sif.smcom = 0 ∧ State.reset.sif.msflag = 0 ∧
  State.reset.sif.smflag = 0 ∧ State.reset.sif.ctrl = 0 ∧ State.reset.sif.bd6 = 0 ∧
  (∀ d p, (State.reset.space d).pageEntry p = none) ∧
  (∀ d dir, (State.reset.space d).handlers dir = []) ∧
  (∀ st off, State.reset.byteAt st off = Config.powerOnByte st off) ∧
  State.reset.fault = none ∧ State.reset.out = []

/-- 20_memory.md R88 and R90 over the model's command port (log 1, the model's choice): the oldest item that decodes
runs as one command, on the state with that item taken; with an empty port nothing happens; a frozen block takes the
item and does nothing (10_state.md R60; log 19). -/
def Obligations.StepRunsDecodedCommand : Prop :=
  (∀ (s : State) (item : PortItem) (rest : List PortItem) (i : Instr),
    s.Live → s.port = item :: rest → decode item = .ok i → step s = exec i { s with port := rest }) ∧
  (∀ s : State, s.port = [] → step s = .next s) ∧
  (∀ (s : State) (item : PortItem) (rest : List PortItem) (r : FaultRecord),
    s.fault = some r → s.port = item :: rest → step s = .next { s with port := rest })

/-- 30_encoding.md R145, first item, over the model's frame of 22 bytes (log 2, the model's choice): a selector that
R140 does not assign raises UNKNOWN_COMMAND and does nothing else. It is no command that 10_state.md R60 could have
recorded: that the record holds the item at the port is the model's choice (log 4). -/
def Obligations.UnassignedSelectorIsRefused : Prop :=
  ∀ (s : State) (b : Byte) (bytes : List Byte) (rest : List PortItem),
    s.Live → bytes.length = 21 → s.port = ⟨.command, b :: bytes⟩ :: rest →
    b.toNat ∉ [0x01, 0x02, 0x03, 0x10, 0x11, 0x12, 0x13, 0x14, 0x18, 0x19, 0x1A, 0x1B, 0x1C, 0x20, 0x21, 0x30, 0x31,
      0x32, 0x33, 0x40, 0x41, 0x42, 0x43, 0x44, 0x45, 0x46, 0x50, 0x51] →
    step s = .next { s with
      port := rest
      fault := some { cause := .unknownCommand b.toNat, command := .unassigned ⟨.command, b :: bytes⟩ }
      result := .none }

/-- 10_state.md R60 and 60_exceptions.md R403 (1): once a fault is recorded every command does nothing, and a fault that
a command raises records that command with its operands. 60_exceptions.md R400 as the model takes it (log 4, the
model's choice): a raise is a next state, so every command answers one. -/
def Obligations.CommandsAnswerNextAndFreezeAfterAFault : Prop :=
  (∀ (i : Instr) (s : State), ∃ t, exec i s = .next t) ∧
  (∀ (i : Instr) (s : State) (r : FaultRecord), s.fault = some r → exec i s = .next s) ∧
  ∀ (i : Instr) (s t : State) (r : FaultRecord), s.Live → exec i s = .next t → t.fault = some r → r.command = .command i

/-- The invariant holds at power-on. -/
def Obligations.InvariantAtPowerOn : Prop := Machine.Inv State.reset

/-- 10_state.md R36 b, c and d, R40 (bits [31:24] of `base` are 0), R55 (a FIFO holds at most `FIFO_DEPTH` words),
41_dma_registers.md R270 (the seventh flag of LATCH[1] is never set), and the canonical form of the stores (log 6):
every step keeps them. -/
def Obligations.InvariantKeptByStep : Prop := ∀ s t : State, Machine.Inv s → step s = .next t → Machine.Inv t

/-- 10_state.md R33, R34, R65 and R66, whatever the command: the output log only grows; no command changes `FIFO_DEPTH`
or `KIND`; only the three registrations change an address space. That no command changes what waits at the command port
is the model's own clause, about its own port (log 1, the model's choice). -/
def Obligations.WhatEveryCommandKeeps : Prop :=
  ∀ (i : Instr) (s t : State), exec i s = .next t →
    (∃ es, t.out = s.out ++ es) ∧ t.params = s.params ∧ t.port = s.port ∧
    ((∀ d vstart vend mask st, i ≠ .registerRegion d vstart vend mask st) →
     (∀ d lo hi h, i ≠ .registerReadHandler d lo hi h) →
     (∀ d lo hi h, i ≠ .registerWriteHandler d lo hi h) → t.asP = s.asP ∧ t.asS = s.asS)

/-- 60_exceptions.md R412, an inference the spec marks as its own ("derived: from rule R410"), and 10_state.md R50: a
command other than `Run` calls neither the interrupt controller nor the audio unit, and sets no latch flag. -/
def Obligations.OnlyRunInterrupts : Prop :=
  ∀ (i : Instr) (s t : State), exec i s = .next t → (∀ n, i ≠ .dmaRun n) →
    (∃ es, t.out = s.out ++ es ∧ Event.irqRequest ∉ es ∧ ∀ c, Event.audioNotify c ∉ es) ∧
    ∀ h n, (t.latch h).flags.getLsbD n = true → (s.latch h).flags.getLsbD n = true

/-- 43_sif.md R366 and R472 (decision D41): no command but `Run` and the FIFO pushes and pops changes a FIFO. -/
def Obligations.OnlyRunAndFifoCommandsMoveWords : Prop :=
  ∀ (i : Instr) (s t : State), exec i s = .next t → (∀ n, i ≠ .dmaRun n) → (∀ w, i ≠ .writeSide0Fifo w) →
    (∀ w, i ≠ .writeSide1FifoWord w) → (∀ v, i ≠ .writeSide1FifoWide v) → i ≠ .readSide0Fifo → i ≠ .readSide1Fifo →
    ∀ side, t.fifo side = s.fifo side

/-- 60_exceptions.md R420, with 43_sif.md R360 and R361: MSCOM changes only through a write from side P, and SMCOM only
through a write from side S: the two commands of the register, or a Word or Quad write on that domain (a Quad on S is
refused), or, on S, an inbound word that a `Run` writes through the S window. The last takes a `base` above its 24 bits
(10_state.md R40), so in a good state no `Run` changes SMCOM. -/
def Obligations.ComRegistersWrittenOnlyFromTheirSide : Prop :=
  ∀ (i : Instr) (s t : State), exec i s = .next t →
    (t.sif.mscom ≠ s.sif.mscom →
      (∃ v, i = .sifWriteMscom .P v) ∨ (∃ v, i = .stMscomP v) ∨ (∃ va v, i = .writeWord .P va v) ∨
      (∃ va v, i = .writeQuad .P va v)) ∧
    (t.sif.smcom ≠ s.sif.smcom →
      (∃ v, i = .sifWriteSmcom .S v) ∨ (∃ v, i = .stSmcomS v) ∨ (∃ va v, i = .writeWord .S va v) ∨
      (∃ n c, i = .dmaRun n ∧ s.kind c = .inbound ∧ translate .S (s.chan c).base = 0x1D000010 ∧
        t.sif.smcom ∈ s.sif.fifo1)) ∧
    (Machine.Inv s → (∃ n, i = .dmaRun n) → t.sif.smcom = s.sif.smcom)

/-! ## Encoding -/

/-- Over the model's frame (log 2): the decoder reads back every command, with every operand, from its encoding. -/
def Obligations.DecodeOfEncode : Prop := ∀ i : Instr, i.wellFormed = true → decode (encode i) = .ok i

/-- Over the model's frame (log 2): what decodes is a well-formed command, and the item is that command's encoding,
so no two items are one command. -/
def Obligations.EncodeOfDecode : Prop :=
  ∀ (item : PortItem) (i : Instr), decode item = .ok i → i.wellFormed = true ∧ encode i = item

/-- 30_encoding.md R140, R121, R125 and R150 as bytes of the model's frame (log 2): a few items written out by hand. -/
def Obligations.WrittenItemsDecode : Prop :=
  decode ⟨.command, [0x1A, 1, 0x00, 0x20, 0x00, 0x00, 0x10, 0x00, 0x00, 0x80, 0, 0, 0, 0, 0, 0, 0, 0, 0, 0, 0, 0]⟩ =
    .ok (.writeWord .S 0x2000 0x80000010) ∧
  decode ⟨.command, [0x42, 0x00, 0x10, 0x00, 0x00, 0x03, 0x00, 0x00, 0x00, 0, 0, 0, 0, 0, 0, 0, 0, 0, 0, 0, 0, 0]⟩ =
    .ok (.writeSide1FifoWide 0x0000000300001000) ∧
  decode ⟨.command, [0x33, 1, 0x66, 0x15, 0x80, 0x1F, 0x01, 0, 0, 0, 0, 0, 0, 0, 0, 0, 0, 0, 0, 0, 0, 0]⟩ =
    .ok (.dmaWriteRegister .w16 0x1F801566 1) ∧
  decode ⟨.mmio32, [0x74, 0x15, 0x80, 0x1F, 1, 0x00, 0x00, 0x84, 0x00, 0, 0, 0, 0, 0, 0, 0, 0, 0, 0, 0, 0, 0]⟩ =
    .ok (.stDicr2 0x00840000) ∧
  decode ⟨.mmioChannel, [0x26, 1, 0x07, 0x00, 0, 0, 0, 0, 0, 0, 0, 0, 0, 0, 0, 0, 0, 0, 0, 0, 0, 0]⟩ =
    .ok (.stBcrCount 2 7) ∧
  decode ⟨.mmio32, [0x00, 0xF2, 0x00, 0x10, 0, 0, 0, 0, 0, 0, 0, 0, 0, 0, 0, 0, 0, 0, 0, 0, 0, 0]⟩ = .ok .ldMscomP

/-- 30_encoding.md R124 and 41_dma_registers.md R262, where "bit 3 is the enable bit" is the spec's own choice from
general knowledge: the full slot table, and where a channel's enable bit stands; with the half and the index of a channel
(41_dma_registers.md R270). -/
def Obligations.SlotTableAndEnableBits : Prop :=
  [0, 1, 2, 3, 4, 5, 6, 7, 8, 9, 10, 11, 12, 13, 14, 15].map (fun slot => (channelOfSlot slot).map Fin.val) =
    [some 7, some 8, some 9, some 10, some 11, some 12, none, none, some 0, some 1, some 2, some 3, some 4, some 5,
      some 6, some 7] ∧
  ∀ (s : State) (c : Fin 13),
    s.enableBit c = (if c.val < 7 then s.dpcr0.getLsbD (4 * c.val + 3) else s.dpcr1.getLsbD (4 * (c.val - 7) + 3)) ∧
    halfOf c = (if c.val < 7 then .h0 else .h1) ∧ idxOf c = (if c.val < 7 then c.val else c.val - 7)

/-! ## Address space -/

/-- 40_address_space.md R206, with the masks and the scratch window of 00_scope.md R7. The primary mask and the window
are the spec's decision D5, "their values are [from general knowledge, not in source]" (R206; log 15). -/
def Obligations.TranslationRule : Prop :=
  ∀ (s : State) (va : Word), s.Live →
    exec (.translateVirtualAddress .S va) s = .next { s with result := .word (va &&& 0x1FFFFFFF) } ∧
    (0x70000000 ≤ va.toNat ∧ va.toNat < 0x70004000 →
      exec (.translateVirtualAddress .P va) s = .next { s with result := .word va }) ∧
    (va.toNat < 0x70000000 ∨ 0x70004000 ≤ va.toNat →
      exec (.translateVirtualAddress .P va) s = .next { s with result := .word (va &&& 0x1FFFFFFF) })

/-- 40_address_space.md R207: the page table decides first; then the one window that holds the address; else the
address is unmapped. An aligned access of at most 8 bytes stays in its page. -/
def Obligations.LookupRule : Prop :=
  ∀ (s : State) (d : Domain) (dir : Dir) (va : Word),
    let pa := translate d va
    let p := pa.toNat / 4096 * 4096
    (∀ e, (s.space d).pageEntry p = some e → lookup d dir va s = .fast e.store (e.off + pa.toNat % 4096) e.perm) ∧
    ((s.space d).pageEntry p = none →
      (∀ w ∈ (s.space d).handlers dir, (s.space d).Good → w.lo ≤ pa.toNat → pa.toNat < w.hi →
        lookup d dir va s = .handler w.handler pa) ∧
      ((∀ w ∈ (s.space d).handlers dir, pa.toNat < w.lo ∨ w.hi ≤ pa.toNat) → lookup d dir va s = .unmapped pa)) ∧
    ∀ n ∈ [1, 2, 4, 8], va.toNat % n = 0 → pa.toNat % 4096 + n ≤ 4096

/-- 40_address_space.md R213. -/
def Obligations.ValidCodeRegionRule : Prop :=
  ∀ (s : State) (d : Domain) (va : Word), s.Live →
    ∃ b, exec (.validCodeRegion d va) s = .next { s with result := .bool b } ∧
      (b = true ↔ ∃ e, (s.space d).pageEntry ((translate d va).toNat / 4096 * 4096) = some e ∧
        (e.store = .bootRom ∨ (d = .P ∧ e.store = .mainRam) ∨ (d = .S ∧ e.store = .iopRam)))

/-- 40_address_space.md R200: the bounds check, the check pass, which reports the lowest bad page, and the write pass,
which sets the entry of every page of the window and of no other page. -/
def Obligations.RegisterRegionRule : Prop :=
  ∀ (s : State) (d : Domain) (vstart : Word) (vend : Nat) (mask : Word) (st : Store), s.Live →
    let bad := fun p => (s.space d).pageEntry p ≠ none ∨ (p &&& mask.toNat) + 4096 > Config.storeSize st
    let inWindow := fun p => p % 4096 = 0 ∧ vstart.toNat ≤ p ∧ p < vend
    (vstart.toNat % 4096 ≠ 0 ∨ vend % 4096 ≠ 0 ∨ vstart.toNat ≥ vend →
      Raises (.registerRegion d vstart vend mask st) (.configWindow d vstart.toNat vend) s) ∧
    (vstart.toNat % 4096 = 0 → vend % 4096 = 0 → vstart.toNat < vend →
      (∀ p, inWindow p → bad p → (∀ p', inWindow p' → p' < p → ¬ bad p') →
        Raises (.registerRegion d vstart vend mask st) (.configPage d p) s) ∧
      ((∀ p, inWindow p → ¬ bad p) →
        ∃ t, exec (.registerRegion d vstart vend mask st) s = .next t ∧
          (∀ p, inWindow p → (t.space d).pageEntry p =
            some { store := st, off := p &&& mask.toNat, perm := if st = .bootRom then .ro else .rw }) ∧
          (∀ p, ¬ inWindow p → p % 4096 = 0 → (t.space d).pageEntry p = (s.space d).pageEntry p) ∧
          (∀ dir, (t.space d).handlers dir = (s.space d).handlers dir) ∧
          (∀ d', d' ≠ d → t.space d' = s.space d') ∧
          t = { s with asP := t.asP, asS := t.asS, result := .none }))

/-- 40_address_space.md R201, for either direction: an empty window or one that overlaps a window of the same
direction is refused; any other is appended. -/
def Obligations.RegisterHandlerRule : Prop :=
  ∀ (s : State) (d : Domain) (dir : Dir) (lo : Word) (hi : Nat) (h : Handler), s.Live →
    let i := match dir with
      | .read => Instr.registerReadHandler d lo hi h
      | .write => Instr.registerWriteHandler d lo hi h
    let clash := ∃ w ∈ (s.space d).handlers dir, lo.toNat < w.hi ∧ w.lo < hi
    (hi ≤ lo.toNat ∨ clash →
      Raises i (.configWindow d lo.toNat hi) s) ∧
    (lo.toNat < hi → ¬ clash →
      ∃ t, exec i s = .next t ∧
        (t.space d).handlers dir = (s.space d).handlers dir ++ [{ lo := lo.toNat, hi := hi, handler := h }] ∧
        (∀ dir', dir' ≠ dir → (t.space d).handlers dir' = (s.space d).handlers dir') ∧
        (t.space d).regions = (s.space d).regions ∧
        (∀ d', d' ≠ d → t.space d' = s.space d') ∧
        t = { s with asP := t.asP, asS := t.asS, result := .none })

/-- 40_address_space.md R208 and 20_memory.md R80 on the fast path: the bytes of the store, little-endian; nothing
else changes. -/
def Obligations.FastReadsAreLittleEndian : Prop :=
  ∀ (s : State) (d : Domain) (va : Word) (st : Store) (off : Nat) (perm : Perm),
    s.Live → lookup d .read va s = .fast st off perm →
    exec (.readByte d va) s = .next { s with result := .byte (s.byteAt st off) } ∧
    (va.toNat % 2 = 0 →
      exec (.readHalf d va) s = .next { s with result := .half (s.byteAt st (off + 1) ++ s.byteAt st off) }) ∧
    (va.toNat % 4 = 0 → exec (.readWord d va) s = .next { s with result := .word (s.wordAt st off) }) ∧
    (va.toNat % 8 = 0 →
      exec (.readDouble d va) s = .next { s with result := .double (s.wordAt st (off + 4) ++ s.wordAt st off) })

/-- 40_address_space.md R209 and 20_memory.md R80 on a read-write page: the bytes of the value stored little-endian
at the offset that lookup gives, every other byte and all other state as before. -/
def Obligations.FastWritesStoreTheirBytes : Prop :=
  ∀ (s : State) (d : Domain) (va : Word) (st : Store) (off : Nat),
    s.Live → lookup d .write va s = .fast st off .rw →
    (∀ v : BitVec 8, ∃ t, exec (.writeByte d va v) s = .next t ∧ BytesStored st off [v] s t) ∧
    (va.toNat % 2 = 0 → ∀ v : BitVec 16, ∃ t, exec (.writeHalf d va v) s = .next t ∧
      BytesStored st off [v.extractLsb' 0 8, v.extractLsb' 8 8] s t) ∧
    (va.toNat % 4 = 0 → ∀ v : BitVec 32, ∃ t, exec (.writeWord d va v) s = .next t ∧
      BytesStored st off (wordBytes v) s t) ∧
    (va.toNat % 8 = 0 → ∀ v : BitVec 64, ∃ t, exec (.writeDouble d va v) s = .next t ∧
      BytesStored st off (wordBytes (v.extractLsb' 0 32) ++ wordBytes (v.extractLsb' 32 32)) s t)

/-- 20_memory.md R102: a write to a read-only page changes nothing and emits `Diag(WriteRO)`; a read does not look at
the permission (`FastReadsAreLittleEndian` holds for either). -/
def Obligations.ReadOnlyPagesDropWrites : Prop :=
  ∀ (s : State) (d : Domain) (va : Word) (st : Store) (off : Nat),
    s.Live → lookup d .write va s = .fast st off .ro →
    (∀ v, exec (.writeByte d va v) s =
      .next { s with out := s.out ++ [.diag .writeRO d 1 va (some (v.setWidth 64))], result := .none }) ∧
    (va.toNat % 2 = 0 → ∀ v, exec (.writeHalf d va v) s =
      .next { s with out := s.out ++ [.diag .writeRO d 2 va (some (v.setWidth 64))], result := .none }) ∧
    (va.toNat % 4 = 0 → ∀ v, exec (.writeWord d va v) s =
      .next { s with out := s.out ++ [.diag .writeRO d 4 va (some (v.setWidth 64))], result := .none }) ∧
    (va.toNat % 8 = 0 → ∀ v, exec (.writeDouble d va v) s =
      .next { s with out := s.out ++ [.diag .writeRO d 8 va (some v)], result := .none })

/-- 40_address_space.md R211 (and its law R215): an unmapped read returns 0 and an unmapped write is dropped, each with its
`Diag` event. -/
def Obligations.UnmappedAccesses : Prop :=
  ∀ (s : State) (d : Domain) (va pa : Word), s.Live →
    (lookup d .read va s = .unmapped pa →
      exec (.readByte d va) s = .next { s with out := s.out ++ [.diag .read d 1 va none], result := .byte 0 } ∧
      (va.toNat % 2 = 0 → exec (.readHalf d va) s =
        .next { s with out := s.out ++ [.diag .read d 2 va none], result := .half 0 }) ∧
      (va.toNat % 4 = 0 → exec (.readWord d va) s =
        .next { s with out := s.out ++ [.diag .read d 4 va none], result := .word 0 }) ∧
      (va.toNat % 8 = 0 → exec (.readDouble d va) s =
        .next { s with out := s.out ++ [.diag .read d 8 va none], result := .double 0 })) ∧
    (lookup d .write va s = .unmapped pa →
      (∀ v, exec (.writeByte d va v) s =
        .next { s with out := s.out ++ [.diag .write d 1 va (some (v.setWidth 64))], result := .none }) ∧
      (va.toNat % 2 = 0 → ∀ v, exec (.writeHalf d va v) s =
        .next { s with out := s.out ++ [.diag .write d 2 va (some (v.setWidth 64))], result := .none }) ∧
      (va.toNat % 4 = 0 → ∀ v, exec (.writeWord d va v) s =
        .next { s with out := s.out ++ [.diag .write d 4 va (some (v.setWidth 64))], result := .none }) ∧
      (va.toNat % 8 = 0 → ∀ v, exec (.writeDouble d va v) s =
        .next { s with out := s.out ++ [.diag .write d 8 va (some v)], result := .none }))

/-- 20_memory.md R85 for accesses of 2, 4 and 8 bytes: a misaligned access is refused and changes nothing else. -/
def Obligations.MisalignedAccessesRefused : Prop :=
  ∀ (s : State) (d : Domain) (va : Word), s.Live →
    (va.toNat % 2 ≠ 0 →
      Raises (.readHalf d va) (.misaligned .read d 2 va) s ∧
      ∀ v, Raises (.writeHalf d va v) (.misaligned .write d 2 va) s) ∧
    (va.toNat % 4 ≠ 0 →
      Raises (.readWord d va) (.misaligned .read d 4 va) s ∧
      ∀ v, Raises (.writeWord d va v) (.misaligned .write d 4 va) s) ∧
    (va.toNat % 8 ≠ 0 →
      Raises (.readDouble d va) (.misaligned .read d 8 va) s ∧
      ∀ v, Raises (.writeDouble d va v) (.misaligned .write d 8 va) s)

/-- 40_address_space.md R210: a Quad on domain S is refused first, then a misaligned one; an aligned Quad read on P is
its four Word reads in ascending order, composed low word first, and an aligned Quad write its four Word writes, whatever
each of them reaches. That none of the four raises is the model's, not the rule's: the DMA identity on P is taken as an
opaque handler (log 11), and the SIF handler refuses only other widths. -/
def Obligations.QuadIsFourWordAccesses : Prop :=
  ∀ (s : State) (va : Word) (v : BitVec 128), s.Live →
    Raises (.readQuad .S va) (.quadSecondary va) s ∧
    Raises (.writeQuad .S va v) (.quadSecondary va) s ∧
    (va.toNat % 16 ≠ 0 →
      Raises (.readQuad .P va) (.misaligned .quad .P 16 va) s ∧
      Raises (.writeQuad .P va v) (.misaligned .quad .P 16 va) s) ∧
    (va.toNat % 16 = 0 →
      (∃ s0 s1 s2 s3, exec (.readWord .P va) s = .next s0 ∧ exec (.readWord .P (va + 4)) s0 = .next s1 ∧
        exec (.readWord .P (va + 8)) s1 = .next s2 ∧ exec (.readWord .P (va + 12)) s2 = .next s3 ∧
        s3.Live ∧ ∃ w0 w1 w2 w3, s0.result = .word w0 ∧ s1.result = .word w1 ∧ s2.result = .word w2 ∧
          s3.result = .word w3 ∧
          exec (.readQuad .P va) s = .next { s3 with result := .quad (w3 ++ w2 ++ w1 ++ w0) }) ∧
      ∃ t, exec (.writeQuad .P va v) s = .next t ∧ t.Live ∧
        execAll [.writeWord .P va (v.extractLsb' 0 32), .writeWord .P (va + 4) (v.extractLsb' 32 32),
          .writeWord .P (va + 8) (v.extractLsb' 64 32), .writeWord .P (va + 12) (v.extractLsb' 96 32)] s = some t)

/-- 40_address_space.md R210, the corner of a mapped page: all four words take the fast path. -/
def Obligations.QuadsOnTheFastPath : Prop :=
  ∀ (s : State) (va : Word) (st : Store) (off : Nat) (perm : Perm), s.Live → va.toNat % 16 = 0 →
    lookup .P .read va s = .fast st off perm →
    let words := s.wordAt st (off + 12) ++ s.wordAt st (off + 8) ++ s.wordAt st (off + 4) ++ s.wordAt st off
    exec (.readQuad .P va) s = .next { s with result := .quad words } ∧
    (perm = .rw → ∀ v : BitVec 128, ∃ t, exec (.writeQuad .P va v) s = .next t ∧
      BytesStored st off (wordBytes (v.extractLsb' 0 32) ++ wordBytes (v.extractLsb' 32 32) ++
        wordBytes (v.extractLsb' 64 32) ++ wordBytes (v.extractLsb' 96 32)) s t)

/-- 40_address_space.md R214, an inference the spec marks as its own ("derived: from rule R208, rule R209"), and
10_state.md R35 for two domains that map one store: a byte written through one
address reads back through any address that reaches the same byte, the same address among them. -/
def Obligations.ByteRoundTrip : Prop :=
  ∀ (s : State) (d d' : Domain) (va va' : Word) (b : BitVec 8) (st : Store) (off : Nat) (perm : Perm), s.Live →
    lookup d .write va s = .fast st off .rw → lookup d' .read va' s = .fast st off perm →
    ∃ t u, exec (.writeByte d va b) s = .next t ∧ exec (.readByte d' va') t = .next u ∧ u.result = .byte b

/-- 40_address_space.md R205, third item: a read from an opaque handler returns the next free value, cut to the
width, and is logged; a write is logged and changes nothing. The free value is whatever `Config.handlerDraw` is. The DMA
identity on domain P is taken as opaque (log 11, the model's choice). -/
def Obligations.OpaqueHandlerAccesses : Prop :=
  ∀ (s : State) (d : Domain) (va pa : Word) (h : Handler), s.Live → (∃ n, h = .device n) ∨ (d = .P ∧ h = .dma) →
    let logRead := fun w : Width => s.out ++ [.handlerRead d h w pa]
    let logWrite := fun (w : Width) (v : BitVec 64) => s.out ++ [.handlerWrite d h w pa v]
    let x := Config.handlerDraw s.draws
    let n := s.draws + 1
    (lookup d .read va s = .handler h pa →
      exec (.readByte d va) s = .next { s with draws := n, out := logRead .w8, result := .byte (x.setWidth 8) } ∧
      (va.toNat % 2 = 0 →
        exec (.readHalf d va) s = .next { s with draws := n, out := logRead .w16, result := .half (x.setWidth 16) }) ∧
      (va.toNat % 4 = 0 →
        exec (.readWord d va) s = .next { s with draws := n, out := logRead .w32, result := .word (x.setWidth 32) }) ∧
      (va.toNat % 8 = 0 →
        exec (.readDouble d va) s = .next { s with draws := n, out := logRead .w64, result := .double x })) ∧
    (lookup d .write va s = .handler h pa →
      (∀ v, exec (.writeByte d va v) s = .next { s with out := logWrite .w8 (v.setWidth 64), result := .none }) ∧
      (va.toNat % 2 = 0 → ∀ v,
        exec (.writeHalf d va v) s = .next { s with out := logWrite .w16 (v.setWidth 64), result := .none }) ∧
      (va.toNat % 4 = 0 → ∀ v,
        exec (.writeWord d va v) s = .next { s with out := logWrite .w32 (v.setWidth 64), result := .none }) ∧
      (va.toNat % 8 = 0 → ∀ v, exec (.writeDouble d va v) s = .next { s with out := logWrite .w64 v, result := .none }))

/-- 41_dma_registers.md R240 and 40_address_space.md R205, first item: an access that reaches the DMA handler on
domain S has the effect of the register command at the translated address, with its width. -/
def Obligations.DmaHandlerIsRegisterCommand : Prop :=
  ∀ (s : State) (va pa : Word),
    (lookup .S .read va s = .handler .dma pa →
      SameEffect (.readByte .S va) (.dmaReadRegister .w8 pa) s ∧
      (va.toNat % 2 = 0 → SameEffect (.readHalf .S va) (.dmaReadRegister .w16 pa) s) ∧
      (va.toNat % 4 = 0 → SameEffect (.readWord .S va) (.dmaReadRegister .w32 pa) s) ∧
      (va.toNat % 8 = 0 → SameEffect (.readDouble .S va) (.dmaReadRegister .w64 pa) s)) ∧
    (lookup .S .write va s = .handler .dma pa →
      (∀ v, SameEffect (.writeByte .S va v) (.dmaWriteRegister .w8 pa (v.setWidth 64)) s) ∧
      (va.toNat % 2 = 0 → ∀ v, SameEffect (.writeHalf .S va v) (.dmaWriteRegister .w16 pa (v.setWidth 64)) s) ∧
      (va.toNat % 4 = 0 → ∀ v, SameEffect (.writeWord .S va v) (.dmaWriteRegister .w32 pa (v.setWidth 64)) s) ∧
      (va.toNat % 8 = 0 → ∀ v, SameEffect (.writeDouble .S va v) (.dmaWriteRegister .w64 pa v) s))

/-- 20_memory.md R100, whose addresses and sizes are the spec's own choice from general knowledge, after the
registrations of system assembly (70_reset_and_hazards.md R460, steps 2 and 3): what each translated address reaches, in either direction, and the sizes of the stores. -/
def Obligations.DefaultMapAfterAssembly : Prop :=
  [Store.mainRam, .scratch, .bootRom, .iopRam].map Config.storeSize = [0x2000000, 0x4000, 0x400000, 0x200000] ∧
  ∃ s, execAll defaultMap State.reset = some s ∧ s.Live ∧ s.out = [] ∧
    (∀ (dir : Dir) (va : Word),
      let pa := (translate .P va).toNat
      lookup .P dir va s =
        if pa < 0x02000000 then .fast .mainRam pa .rw
        else if 0x70000000 ≤ pa ∧ pa < 0x70004000 then .fast .scratch (pa - 0x70000000) .rw
        else if 0x1FC00000 ≤ pa ∧ pa < 0x20000000 then .fast .bootRom (pa - 0x1FC00000) .ro
        else if 0x1000F200 ≤ pa ∧ pa < 0x1000F270 then .handler .sif (translate .P va)
        else .unmapped (translate .P va)) ∧
    (∀ (dir : Dir) (va : Word),
      let pa := (translate .S va).toNat
      lookup .S dir va s =
        if pa < 0x00200000 then .fast .iopRam pa .rw
        else if 0x1FC00000 ≤ pa ∧ pa < 0x20000000 then .fast .bootRom (pa - 0x1FC00000) .ro
        else if 0x1F801080 ≤ pa ∧ pa < 0x1F801100 then .handler .dma (translate .S va)
        else if 0x1F801500 ≤ pa ∧ pa < 0x1F801580 then .handler .dma (translate .S va)
        else if 0x1D000000 ≤ pa ∧ pa < 0x1D000070 then .handler .sif (translate .S va)
        else .unmapped (translate .S va))

/-! ## DMA registers -/

/-- 41_dma_registers.md R260, R261, R263 and R264: the plain controller registers, by their rows on domain S and by
the commands 0x32 and 0x33. The enable bits of the words written decide, with CHCR bit 24, which channels the next
`Run` steps (41_dma_registers.md R262, where the bit's place is the spec's own choice from general knowledge, with
42_dma_transfer.md R300); DMACEN and DMACINTEN decide neither that nor the calls at the end of a transfer. -/
def Obligations.PlainControllerRegisters : Prop :=
  ∀ (s : State) (v : Word), s.Live →
    (lookup .S .read 0x1F8010F0 s = .handler .dma 0x1F8010F0 → exec .ldDpcr s = .next { s with result := .word s.dpcr0 }) ∧
    (lookup .S .read 0x1F801570 s = .handler .dma 0x1F801570 → exec .ldDpcr2 s = .next { s with result := .word s.dpcr1 }) ∧
    (lookup .S .read 0x1F801578 s = .handler .dma 0x1F801578 → exec .ldDmacen s = .next { s with result := .word s.dmacen }) ∧
    (lookup .S .read 0x1F80157C s = .handler .dma 0x1F80157C →
      exec .ldDmacinten s = .next { s with result := .word s.dmacinten }) ∧
    (lookup .S .write 0x1F8010F0 s = .handler .dma 0x1F8010F0 →
      exec (.stDpcr v) s = .next { s with dpcr0 := v, result := .none }) ∧
    (lookup .S .write 0x1F801570 s = .handler .dma 0x1F801570 →
      exec (.stDpcr2 v) s = .next { s with dpcr1 := v, result := .none }) ∧
    (lookup .S .write 0x1F801578 s = .handler .dma 0x1F801578 →
      exec (.stDmacen v) s = .next { s with dmacen := v, result := .none }) ∧
    (lookup .S .write 0x1F80157C s = .handler .dma 0x1F80157C →
      exec (.stDmacinten v) s = .next { s with dmacinten := v, result := .none }) ∧
    exec (.dmaReadRegister .w32 0x1F8010F0) s = .next { s with result := .word s.dpcr0 } ∧
    exec (.dmaReadRegister .w32 0x1F801570) s = .next { s with result := .word s.dpcr1 } ∧
    exec (.dmaReadRegister .w32 0x1F801578) s = .next { s with result := .word s.dmacen } ∧
    exec (.dmaReadRegister .w32 0x1F80157C) s = .next { s with result := .word s.dmacinten } ∧
    exec (.dmaWriteRegister .w32 0x1F8010F0 (v.setWidth 64)) s = .next { s with dpcr0 := v, result := .none } ∧
    exec (.dmaWriteRegister .w32 0x1F801570 (v.setWidth 64)) s = .next { s with dpcr1 := v, result := .none } ∧
    exec (.dmaWriteRegister .w32 0x1F801578 (v.setWidth 64)) s = .next { s with dmacen := v, result := .none } ∧
    exec (.dmaWriteRegister .w32 0x1F80157C (v.setWidth 64)) s = .next { s with dmacinten := v, result := .none } ∧
    (∀ (x y : Word) (c : Fin 13), ({ s with dpcr0 := x, dpcr1 := y } : State).eligible c =
      ((s.chan c).control.getLsbD 24 &&
        if c.val < 7 then x.getLsbD (4 * c.val + 3) else y.getLsbD (4 * (c.val - 7) + 3))) ∧
    ∀ (x y : Word) (c : Fin 13), ({ s with dmacen := x, dmacinten := y } : State).eligible c = s.eligible c ∧
      ∀ n, OnlyEligible c s → EndsNow c s → ∃ t, exec (.dmaRun n) s = .next t ∧
        exec (.dmaRun n) { s with dmacen := x, dmacinten := y } = .next { t with dmacen := x, dmacinten := y }

/-- 41_dma_registers.md R271 and R272, with 10_state.md R48 for bit 31: the latch halves, by their rows on domain S
and by the commands 0x32 and 0x33. No event is emitted, whatever is written. Which bits are force, masks, master
enable and master flag "are the spec's choice" (10_state.md R47). -/
def Obligations.InterruptLatchRegisters : Prop :=
  ∀ (s : State) (v : Word), s.Live →
    (lookup .S .read 0x1F8010F4 s = .handler .dma 0x1F8010F4 →
      exec .ldDicr s = .next { s with result := .word s.latch0.word }) ∧
    (lookup .S .read 0x1F801574 s = .handler .dma 0x1F801574 →
      exec .ldDicr2 s = .next { s with result := .word s.latch1.word }) ∧
    (lookup .S .write 0x1F8010F4 s = .handler .dma 0x1F8010F4 →
      exec (.stDicr v) s = .next { s with latch0 := s.latch0.afterWrite v, result := .none }) ∧
    (lookup .S .write 0x1F801574 s = .handler .dma 0x1F801574 →
      exec (.stDicr2 v) s = .next { s with latch1 := s.latch1.afterWrite v, result := .none }) ∧
    exec (.dmaReadRegister .w32 0x1F8010F4) s = .next { s with result := .word s.latch0.word } ∧
    exec (.dmaReadRegister .w32 0x1F801574) s = .next { s with result := .word s.latch1.word } ∧
    exec (.dmaWriteRegister .w32 0x1F8010F4 (v.setWidth 64)) s =
      .next { s with latch0 := s.latch0.afterWrite v, result := .none } ∧
    exec (.dmaWriteRegister .w32 0x1F801574 (v.setWidth 64)) s =
      .next { s with latch1 := s.latch1.afterWrite v, result := .none }

/-- 41_dma_registers.md R273, an inference the spec marks as its own ("derived: from rule R271 and rule R272"), for
either half. -/
def Obligations.WriteOneToClearLaw : Prop :=
  ∀ (s : State) (h : Half), s.Live → (s.latch h).flags = 0b0000101 →
    let a : Word := match h with
      | .h0 => 0x1F8010F4
      | .h1 => 0x1F801574
    ∃ t u, exec (.dmaWriteRegister .w32 a 0x05000000) s = .next t ∧
      (t.latch h).flags = 0 ∧ (t.latch h).low = 0 ∧ (t.latch h).masterFlag = false ∧
      exec (.dmaReadRegister .w32 a) t = .next u ∧ u.result = .word 0

/-- 70_reset_and_hazards.md R471, an inference the spec marks as its own ("derived: from 41_dma_registers.md rule R271"),
for either half: writing back what an earlier read returned clears exactly the flags that were pending
at the read; a flag that was set in between, and was 0 when read, stays. -/
def Obligations.LatchReadModifyWriteHazard : Prop :=
  ∀ (s r s' : State) (h : Half) (v : Word), s.Live → s'.Live →
    let a : Word := match h with
      | .h0 => 0x1F8010F4
      | .h1 => 0x1F801574
    exec (.dmaReadRegister .w32 a) s = .next r → r.result = .word v →
    ∃ t, exec (.dmaWriteRegister .w32 a (v.setWidth 64)) s' = .next t ∧ (t.latch h).low = v.extractLsb' 0 24 ∧
      ∀ n, n < 7 → (t.latch h).flags.getLsbD n = ((s'.latch h).flags.getLsbD n && !(s.latch h).flags.getLsbD n)

/-- 41_dma_registers.md R243 and R249, with R241 and R247, inferences the spec marks as its own ("derived: from rule R242",
"derived: from rule R248"), and R245, whose read is "the spec's choice": a channel register read returns the field, by its
row on domain S, for every slot that names a channel. Bits [31:24] of MADR read 0 in every good state. -/
def Obligations.ChannelRegisterReads : Prop :=
  ∀ (s : State) (slot : BitVec 4) (c : Fin 13), s.Live → channelOfSlot slot = some c →
    (slot ≠ 15 → lookup .S .read (channelAddr slot 0x0) s = .handler .dma (channelAddr slot 0x0) →
      exec (.ldMadr slot) s = .next { s with result := .word (s.chan c).base }) ∧
    (Machine.Inv s → (s.chan c).base.extractLsb' 24 8 = 0) ∧
    (slot ≠ 15 → lookup .S .read (channelAddr slot 0x4) s = .handler .dma (channelAddr slot 0x4) →
      exec (.ldBcr slot) s = .next { s with result := .word ((s.chan c).count ++ (s.chan c).size) }) ∧
    (lookup .S .read (channelAddr slot 0x6) s = .handler .dma (channelAddr slot 0x6) →
      exec (.ldBcrCount slot) s = .next { s with result := .half (s.chan c).count }) ∧
    (lookup .S .read (channelAddr slot 0x8) s = .handler .dma (channelAddr slot 0x8) →
      exec (.ldChcr slot) s = .next { s with result := .word (s.chan c).control }) ∧
    (lookup .S .read (channelAddr slot 0xC) s = .handler .dma (channelAddr slot 0xC) →
      exec (.ldTadr slot) s = .next { s with result := .word (s.chan c).tag })

/-- 41_dma_registers.md R242, R244, R246, R248 and R250: a channel register write stores its field of that channel and
changes nothing else, by its row on domain S. -/
def Obligations.ChannelRegisterWrites : Prop :=
  ∀ (s : State) (slot : BitVec 4) (c : Fin 13) (v : Word) (n : BitVec 16), s.Live → channelOfSlot slot = some c →
    (slot ≠ 15 → lookup .S .write (channelAddr slot 0x0) s = .handler .dma (channelAddr slot 0x0) →
      exec (.stMadr slot v) s =
        .next { s with ch := s.ch.set c { s.chan c with base := v &&& 0x00FFFFFF }, result := .none }) ∧
    (slot ≠ 15 → lookup .S .write (channelAddr slot 0x4) s = .handler .dma (channelAddr slot 0x4) →
      exec (.stBcr slot v) s = .next { s with
        ch := s.ch.set c { s.chan c with size := v.extractLsb' 0 16, count := v.extractLsb' 16 16 }
        result := .none }) ∧
    (lookup .S .write (channelAddr slot 0x6) s = .handler .dma (channelAddr slot 0x6) →
      exec (.stBcrCount slot n) s = .next { s with ch := s.ch.set c { s.chan c with count := n }, result := .none }) ∧
    (lookup .S .write (channelAddr slot 0x8) s = .handler .dma (channelAddr slot 0x8) →
      exec (.stChcr slot v) s = .next { s with ch := s.ch.set c { s.chan c with control := v }, result := .none }) ∧
    (lookup .S .write (channelAddr slot 0xC) s = .handler .dma (channelAddr slot 0xC) →
      exec (.stTadr slot v) s = .next { s with ch := s.ch.set c { s.chan c with tag := v }, result := .none })

/-- 41_dma_registers.md R240 for the commands 0x32 and 0x33 at a channel address: the register that bits [3:0] and the
width select, of the channel that bits [7:4] select, whatever the other bits of the address. -/
def Obligations.ChannelRegisterCommands : Prop :=
  ∀ (s : State) (a v : Word) (n : BitVec 16) (c : Fin 13), s.Live →
    a ∉ [0x1F8010F0, 0x1F8010F4, 0x1F801570, 0x1F801574, 0x1F801578, 0x1F80157C] →
    channelOfSlot (a.extractLsb' 4 4) = some c →
    (a.extractLsb' 0 4 = 0x0 →
      exec (.dmaReadRegister .w32 a) s = .next { s with result := .word (s.chan c).base } ∧
      exec (.dmaWriteRegister .w32 a (v.setWidth 64)) s =
        .next { s with ch := s.ch.set c { s.chan c with base := v &&& 0x00FFFFFF }, result := .none }) ∧
    (a.extractLsb' 0 4 = 0x4 →
      exec (.dmaReadRegister .w32 a) s = .next { s with result := .word ((s.chan c).count ++ (s.chan c).size) } ∧
      exec (.dmaWriteRegister .w32 a (v.setWidth 64)) s = .next { s with
        ch := s.ch.set c { s.chan c with size := v.extractLsb' 0 16, count := v.extractLsb' 16 16 }
        result := .none }) ∧
    (a.extractLsb' 0 4 = 0x6 →
      exec (.dmaReadRegister .w16 a) s = .next { s with result := .half (s.chan c).count } ∧
      exec (.dmaWriteRegister .w16 a (n.setWidth 64)) s =
        .next { s with ch := s.ch.set c { s.chan c with count := n }, result := .none }) ∧
    (a.extractLsb' 0 4 = 0x8 →
      exec (.dmaReadRegister .w32 a) s = .next { s with result := .word (s.chan c).control } ∧
      exec (.dmaWriteRegister .w32 a (v.setWidth 64)) s =
        .next { s with ch := s.ch.set c { s.chan c with control := v }, result := .none }) ∧
    (a.extractLsb' 0 4 = 0xC →
      exec (.dmaReadRegister .w32 a) s = .next { s with result := .word (s.chan c).tag } ∧
      exec (.dmaWriteRegister .w32 a (v.setWidth 64)) s =
        .next { s with ch := s.ch.set c { s.chan c with tag := v }, result := .none })

/-- 30_encoding.md R123, R125 and R127, in the order of 60_exceptions.md R403 (4): a controller address at a width other
than 32; then a slot that is no channel; then an offset and width that name no register. -/
def Obligations.DmaRegisterDecodeFaults : Prop :=
  ∀ (s : State) (w : Width) (a : Word) (data : BitVec 64), s.Live →
    let controllers : List Word := [0x1F8010F0, 0x1F8010F4, 0x1F801570, 0x1F801574, 0x1F801578, 0x1F80157C]
    let slot : BitVec 4 := a.extractLsb' 4 4
    let off : BitVec 4 := a.extractLsb' 0 4
    let faults := fun e : Cause =>
      Raises (.dmaReadRegister w a) e s ∧
      Raises (.dmaWriteRegister w a data) e s
    (a ∈ controllers → w ≠ .w32 → faults (.registerDecode a w)) ∧
    (a ∉ controllers → slot = 6 ∨ slot = 7 → faults (.channelIndex a)) ∧
    (a ∉ controllers → slot ≠ 6 → slot ≠ 7 →
      (off, w) ∉ [(0x0, Width.w32), (0x4, .w32), (0x6, .w16), (0x8, .w32), (0xC, .w32)] →
      faults (.registerDecode a w))

/-- The model's choice for the register rows (log 10), after 30_encoding.md R140 and R147: a row has the effect of the
Word access (Half for BCR.count) at its register's address, in every state. -/
def Obligations.RegisterRowsAreAccesses : Prop :=
  ∀ (s : State) (v : Word) (n : BitVec 16) (slot : BitVec 4),
    (∀ r : CtrlReg, SameEffect (loadCtrl r) (.readWord .S r.addr) s ∧
      SameEffect (storeCtrl r v) (.writeWord .S r.addr v) s) ∧
    (∀ (d : Domain) (r : SifReg), SameEffect (loadSif d r) (.readWord d (SifReg.addr d r)) s ∧
      SameEffect (storeSif d r v) (.writeWord d (SifReg.addr d r) v) s) ∧
    (SameEffect (.ldMadr slot) (.readWord .S (channelAddr slot 0x0)) s ∧
      SameEffect (.stMadr slot v) (.writeWord .S (channelAddr slot 0x0) v) s) ∧
    (SameEffect (.ldBcr slot) (.readWord .S (channelAddr slot 0x4)) s ∧
      SameEffect (.stBcr slot v) (.writeWord .S (channelAddr slot 0x4) v) s) ∧
    (SameEffect (.ldBcrCount slot) (.readHalf .S (channelAddr slot 0x6)) s ∧
      SameEffect (.stBcrCount slot n) (.writeHalf .S (channelAddr slot 0x6) n) s) ∧
    (SameEffect (.ldChcr slot) (.readWord .S (channelAddr slot 0x8)) s ∧
      SameEffect (.stChcr slot v) (.writeWord .S (channelAddr slot 0x8) v) s) ∧
    (SameEffect (.ldTadr slot) (.readWord .S (channelAddr slot 0xC)) s ∧
      SameEffect (.stTadr slot v) (.writeWord .S (channelAddr slot 0xC) v) s)

/-! ## Reset and the transfer engine -/

/-- 70_reset_and_hazards.md R450 and R451: what `Reset` sets, and that nothing else changes. With R453, an inference the
spec marks as its own ("derived: from rule R450"): a second `Reset` changes nothing, from any state. -/
def Obligations.ResetEffect : Prop :=
  (∀ s : State, s.Live → ∃ t, exec .dmaReset s = .next t ∧
    (∀ c, t.chan c = { base := 0, size := 0, count := 0, control := 0, tag := 0, endTransfer := false }) ∧
    t.dpcr0 = 0x07654321 ∧ t.dpcr1 = 0x07654321 ∧
    (∀ h, (t.latch h).low = 0 ∧ (t.latch h).flags = 0 ∧ (t.latch h).masterFlag = false) ∧
    t.dmacen = 0 ∧ t.dmacinten = 0 ∧
    t = { s with
      ch := t.ch, dpcr0 := t.dpcr0, dpcr1 := t.dpcr1, latch0 := t.latch0, latch1 := t.latch1
      dmacen := t.dmacen, dmacinten := t.dmacinten, result := .none }) ∧
  ∀ s t : State, exec .dmaReset s = .next t → exec .dmaReset t = .next t

/-- 42_dma_transfer.md R300: `cycles` decides nothing, and with no eligible channel `Run` changes nothing. -/
def Obligations.RunWithNoEligibleChannel : Prop :=
  (∀ (s : State) (m n : Nat), SameEffect (.dmaRun m) (.dmaRun n) s) ∧
  ∀ (s : State) (n : Nat), s.Live →
    (∀ c, (s.chan c).control.getLsbD 24 = false ∨ s.enableBit c = false) →
    exec (.dmaRun n) s = .next { s with result := .none }

/-- 42_dma_transfer.md R305 before the end: a streaming channel counts down by one and touches nothing else. -/
def Obligations.StreamingStepCountsDown : Prop :=
  ∀ (s : State) (c : Fin 13), s.Live → s.kind c = .streaming → 2 ≤ (s.chan c).count.toNat →
    StepLeaves c s { s with ch := s.ch.set c { s.chan c with count := (s.chan c).count - 1 }, result := .none }

/-- 42_dma_transfer.md R330, at the step that ends a transfer, for each kind of channel. When a step is that one is R305,
R313, and R323, an inference the spec marks as its own ("derived: from ... rule R313"). -/
def Obligations.EndOfTransfer : Prop :=
  ∀ (s : State) (c : Fin 13), s.Live → EndsNow c s → ∃ t, StepLeaves c s t ∧ TransferEnded c (s.zeroCount c) t

/-- 60_exceptions.md R413: two channels that end in one `Run` end in ascending order, each with its own calls. -/
def Obligations.TwoEndsInOneRun : Prop :=
  ∀ (s : State) (c c' : Fin 13) (n : Nat), s.Live → c < c' →
    (∀ c'', s.eligible c'' = decide (c'' = c ∨ c'' = c')) → EndsNow c s → EndsNow c' s →
    ∃ u t, exec (.dmaRun n) s = .next t ∧ TransferEnded c (s.zeroCount c) u ∧ TransferEnded c' (u.zeroCount c') t

/-- 42_dma_transfer.md R311: the outbound tag fetch stalls without room for two words (R331), and else makes its four
reads in order, whatever they reach. The first read that raises ends it, and the effects of the reads before it stay
(60_exceptions.md R400); at a misaligned `tag` that is the first (20_memory.md R85). -/
def Obligations.OutboundTagFetch : Prop :=
  ∀ (s : State) (c : Fin 13), s.Live → s.kind c = .outbound → (s.chan c).count = 0 → (s.chan c).endTransfer = false →
    (¬ s.Room .side0 2 → StepLeaves c s { s with result := .none }) ∧
    (s.Room .side0 2 → (s.chan c).tag.toNat % 4 ≠ 0 →
      StepRaises c (.misaligned .read .S 4 (s.chan c).tag) s { s with result := .none }) ∧
    (s.Room .side0 2 → ∀ (ws : List Word) (u t : State) (r : FaultRecord), ws.length < 4 →
      ReadsWords (s.chan c).tag ws s u →
      exec (.readWord .S ((s.chan c).tag + BitVec.ofNat 32 (4 * ws.length))) u = .next t → t.fault = some r →
      StepRaises c r.cause s { t with fault := none }) ∧
    (s.Room .side0 2 → ∀ (w0 w1 w2 w3 : Word) (t : State), ReadsWords (s.chan c).tag [w0, w1, w2, w3] s t →
      StepLeaves c s { t with
        sif := { s.sif with fifo0 := s.sif.fifo0 ++ [w2, w3] }
        ch := s.ch.set c { s.chan c with
          base := w0 &&& 0x00FFFFFF
          count := ((w1 + 3) &&& 0xFFFFFFFC).setWidth 16
          tag := (s.chan c).tag + 16
          endTransfer := w0.getLsbD 30 || w0.getLsbD 31 }
        result := .none })

/-- 42_dma_transfer.md R312: one outbound data word: the step stalls without room for a word (R331), and else reads and
pushes the word, whatever the read reaches. A read that raises, as at a misaligned `base` (20_memory.md R85), pushes
nothing (60_exceptions.md R400). -/
def Obligations.OutboundDataWord : Prop :=
  ∀ (s : State) (c : Fin 13), s.Live → s.kind c = .outbound → (s.chan c).count ≠ 0 →
    (¬ s.Room .side0 1 → StepLeaves c s { s with result := .none }) ∧
    (s.Room .side0 1 → (s.chan c).base.toNat % 4 ≠ 0 →
      StepRaises c (.misaligned .read .S 4 (s.chan c).base) s { s with result := .none }) ∧
    (s.Room .side0 1 → ∀ (t : State) (r : FaultRecord), exec (.readWord .S (s.chan c).base) s = .next t →
      t.fault = some r → StepRaises c r.cause s { t with fault := none }) ∧
    (s.Room .side0 1 → ∀ (t : State) (w : Word), ReadsWord (s.chan c).base w s t →
      StepLeaves c s { t with
        sif := { s.sif with fifo0 := s.sif.fifo0 ++ [w] }
        ch := s.ch.set c { s.chan c with
          base := ((s.chan c).base + 4) &&& 0x00FFFFFF
          count := (s.chan c).count - 1 }
        result := .none })

/-- 42_dma_transfer.md R321: the inbound tag fetch stalls until four words are queued (R331), and takes them; the last
two are discarded. The base mask and the test of bits 30 and 31 "are the spec's reading" of the source's "mirror of the
above" (R321, 30_encoding.md R136). -/
def Obligations.InboundTagFetch : Prop :=
  ∀ (s : State) (c : Fin 13), s.Live → s.kind c = .inbound → (s.chan c).count = 0 → (s.chan c).endTransfer = false →
    (s.sif.fifo1.length < 4 → StepLeaves c s { s with result := .none }) ∧
    ∀ (lo hi p q : Word) (rest : List Word), s.sif.fifo1 = lo :: hi :: p :: q :: rest →
      StepLeaves c s { s with
        sif := { s.sif with fifo1 := rest }
        ch := s.ch.set c { s.chan c with
          base := lo &&& 0x00FFFFFF
          count := hi.setWidth 16
          endTransfer := lo.getLsbD 30 || lo.getLsbD 31 }
        result := .none }

/-- 42_dma_transfer.md R322: one inbound data word: the step stalls on an empty FIFO (R331), and else pops the word and
writes it, whatever the write reaches. A write that raises, as at a misaligned `base` (20_memory.md R85), leaves the word
popped (60_exceptions.md R400). Where the write reaches the controller's own registers, `Run` goes on with the later
channels (log 20, the model's reading of R302): the last clause about `Run` is then about a write that enables none of
them. -/
def Obligations.InboundDataWord : Prop :=
  ∀ (s : State) (c : Fin 13), s.Live → s.kind c = .inbound → (s.chan c).count ≠ 0 →
    (s.sif.fifo1 = [] → StepLeaves c s { s with result := .none }) ∧
    ∀ (w : Word) (rest : List Word), s.sif.fifo1 = w :: rest →
      let popped : State := { s with sif := { s.sif with fifo1 := rest } }
      ((s.chan c).base.toNat % 4 ≠ 0 →
        StepRaises c (.misaligned .write .S 4 (s.chan c).base) s { popped with result := .none }) ∧
      (∀ (t : State) (r : FaultRecord), exec (.writeWord .S (s.chan c).base w) popped = .next t → t.fault = some r →
        StepRaises c r.cause s { t with fault := none }) ∧
      ∀ t : State, exec (.writeWord .S (s.chan c).base w) popped = .next t → t.Live →
        let u : State := { t with
          ch := t.ch.set c { t.chan c with
            base := ((t.chan c).base + 4) &&& 0x00FFFFFF
            count := (t.chan c).count - 1 }
          result := .none }
        stepChannel c { s with result := .none } = .done () u ∧
        ((∀ pa, lookup .S .write (s.chan c).base s ≠ .handler .dma pa) ∨ (∀ c', c < c' → t.eligible c' = false) →
          OnlyEligible c s → ∀ n, exec (.dmaRun n) s = .next u)

/-- 42_dma_transfer.md R303: stepping a channel of no described kind is fatal; when it is the first eligible one, no
later channel steps in that `Run` (R300). -/
def Obligations.UnimplementedChannelIsFatal : Prop :=
  ∀ (s : State) (c : Fin 13), s.Live → s.kind c = .unimplemented →
    StepRaises c (.unmodelledChannel c) s { s with result := .none }

/-- 70_reset_and_hazards.md R481, first item: a streaming transfer started with count N ends at its N-th `Run`, or at its
first for N = 0, and not before. -/
def Obligations.StreamingEndsOnTime : Prop :=
  ∀ (s : State) (c : Fin 13) (N : Nat), s.Live → OnlyEligible c s → s.kind c = .streaming → (s.chan c).count.toNat = N →
    (∀ k, k < max 1 N → ∃ t, execAll (List.replicate k (.dmaRun 1)) s = some t ∧
      (t.chan c).control.getLsbD 24 = true ∧ (t.chan c).count.toNat = N - k ∧ t.out = s.out ∧
      t.latch (halfOf c) = s.latch (halfOf c)) ∧
    ∃ t, execAll (List.replicate (max 1 N) (.dmaRun 1)) s = some t ∧ TransferEnded c (s.zeroCount c) t

/-- 70_reset_and_hazards.md R481, second item, with 42_dma_transfer.md R310 to R313 and R332: an outbound chain of tags
in memory, only the last one ending it, pushes each tag's payload and data in order and ends at `Run` number
k + N1 + ... + Nk + 1, and not before. -/
def Obligations.OutboundChainEndsOnTime : Prop :=
  ∀ (s : State) (c : Fin 13) (links : List Link) (final : Link), s.Live → OnlyEligible c s → s.kind c = .outbound →
    s.params.fifoDepth = none → (s.chan c).count = 0 → (s.chan c).endTransfer = false →
    LinksAt (s.chan c).tag links s → ChainEnds links → links.getLast? = some final →
    (∀ k, k ≤ chainSteps links → ∃ t, execAll (List.replicate k (.dmaRun 1)) s = some t ∧
      (t.chan c).control = (s.chan c).control ∧ t.out = s.out ∧ t.latch (halfOf c) = s.latch (halfOf c)) ∧
    ∃ u t, execAll (List.replicate (chainSteps links) (.dmaRun 1)) s = some u ∧
      execAll (List.replicate (chainSteps links + 1) (.dmaRun 1)) s = some t ∧
      u = { s with
        sif := { s.sif with fifo0 := s.sif.fifo0 ++ outWords links }
        ch := s.ch.set c { s.chan c with
          base := final.endBase
          count := 0
          tag := (s.chan c).tag + BitVec.ofNat 32 (16 * links.length)
          endTransfer := true }
        result := .none } ∧
      TransferEnded c u t

/-- 70_reset_and_hazards.md R481, third item, with 42_dma_transfer.md R320 to R323 and R332: with a chain of tags and
their data queued, each with its exact count and only the last tag ending the chain, the data are written word by word as
Word writes on domain S would (the state they leave, `v`), and the transfer ends at `Run` number k + N1 + ... + Nk + 1, and
not before; what was pushed after the chain stays queued. No data word reaches the controller's own registers, where it
could change the transfer itself. On a read-write page a written word stands where the data's address maps, if no later
word of the chain is written over it (the last clause: one tag whose addresses are one run of a store). -/
def Obligations.InboundChainLandsInMemory : Prop :=
  ∀ (s v : State) (c : Fin 13) (links : List Link) (final : Link) (rest : List Word), s.Live → OnlyEligible c s →
    s.kind c = .inbound → (s.chan c).count = 0 → (s.chan c).endTransfer = false →
    s.sif.fifo1 = inWords links ++ rest → ChainEnds links → links.getLast? = some final →
    (∀ l ∈ links, l.data.length = l.inCount) →
    (∀ l ∈ links, ∀ i pa, i < l.data.length → lookup .S .write (wordsPast l.w0 i) s ≠ .handler .dma pa) →
    execAll (inWrites links) s = some v → v.Live →
    (∀ k, k ≤ chainSteps links → ∃ t, execAll (List.replicate k (.dmaRun 1)) s = some t ∧
      (t.chan c).control = (s.chan c).control ∧ NoInterruptSent s t ∧ t.latch (halfOf c) = s.latch (halfOf c)) ∧
    ∃ u t, execAll (List.replicate (chainSteps links) (.dmaRun 1)) s = some u ∧
      execAll (List.replicate (chainSteps links + 1) (.dmaRun 1)) s = some t ∧
      u = { v with
        sif := { v.sif with fifo1 := rest }
        ch := s.ch.set c { s.chan c with base := final.endBase, count := 0, endTransfer := true }
        result := .none } ∧
      TransferEnded c u t ∧
      ∀ st off, links = [final] →
        (∀ i, i < final.data.length → lookup .S .write (wordsPast final.w0 i) s = .fast st (off + 4 * i) .rw) →
        (∀ (i : Nat) (h : i < final.data.length), u.wordAt st (off + 4 * i) = final.data[i]) ∧
        MemorySameOutside st off (4 * final.data.length) s u

/-! ## SIF -/

/-- 43_sif.md R351 and R352: the pushes. -/
def Obligations.FifoPushes : Prop :=
  ∀ (s : State) (w : Word) (v : BitVec 64), s.Live →
    (s.params.fifoDepth ≠ some s.sif.fifo0.length →
      exec (.writeSide0Fifo w) s = .next { s with sif := { s.sif with fifo0 := s.sif.fifo0 ++ [w] }, result := .none }) ∧
    (s.params.fifoDepth = some s.sif.fifo0.length →
      Raises (.writeSide0Fifo w) (.fifoOverflow .side0) s) ∧
    (s.Room .side1 1 → exec (.writeSide1FifoWord w) s =
      .next { s with sif := { s.sif with fifo1 := s.sif.fifo1 ++ [w] }, result := .none }) ∧
    (¬ s.Room .side1 1 →
      Raises (.writeSide1FifoWord w) (.fifoOverflow .side1) s) ∧
    (s.Room .side1 2 → exec (.writeSide1FifoWide v) s = .next { s with
      sif := { s.sif with fifo1 := s.sif.fifo1 ++ [v.extractLsb' 0 32, v.extractLsb' 32 32] }
      result := .none }) ∧
    (¬ s.Room .side1 2 →
      Raises (.writeSide1FifoWide v) (.fifoOverflow .side1) s)

/-- 43_sif.md R353 and R354: the pops and the sizes. -/
def Obligations.FifoPopsAndSizes : Prop :=
  ∀ (s : State) (w : Word) (ws : List Word), s.Live →
    (s.sif.fifo0 = w :: ws →
      exec .readSide0Fifo s = .next { s with sif := { s.sif with fifo0 := ws }, result := .word w }) ∧
    (s.sif.fifo0 = [] →
      Raises .readSide0Fifo (.fifoUnderflow .side0) s) ∧
    (s.sif.fifo1 = w :: ws →
      exec .readSide1Fifo s = .next { s with sif := { s.sif with fifo1 := ws }, result := .word w }) ∧
    (s.sif.fifo1 = [] →
      Raises .readSide1Fifo (.fifoUnderflow .side1) s) ∧
    exec .getSide0FifoSize s = .next { s with result := .size s.sif.fifo0.length } ∧
    exec .getSide1FifoSize s = .next { s with result := .size s.sif.fifo1.length }

/-- 43_sif.md R355, an inference the spec marks as its own ("derived: from rule R351 to rule R353"): from an empty
queue, the words popped by any run of commands without a `Run` that raises nothing are a prefix of the words pushed, in push order, and the queue holds the rest. -/
def Obligations.FifoOrderLaw : Prop :=
  ∀ (side : FifoSide) (is : List Instr) (s t : State) (popped : List Word), s.Live → s.fifo side = [] →
    (∀ n, Instr.dmaRun n ∉ is) → poppedWords side is s = some (popped, t) → t.Live →
    popped ++ t.fifo side = pushedWords side is

/-- 43_sif.md R359: a read returns the register, from either side, by the command 0x50 and by the rows of both
domains. -/
def Obligations.SifRegisterReads : Prop :=
  ∀ (s : State) (side : Domain), s.Live →
    exec (.sifReadRegister side .mscom) s = .next { s with result := .word s.sif.mscom } ∧
    exec (.sifReadRegister side .smcom) s = .next { s with result := .word s.sif.smcom } ∧
    exec (.sifReadRegister side .msflag) s = .next { s with result := .word s.sif.msflag } ∧
    exec (.sifReadRegister side .smflag) s = .next { s with result := .word s.sif.smflag } ∧
    exec (.sifReadRegister side .ctrl) s = .next { s with result := .word s.sif.ctrl } ∧
    exec (.sifReadRegister side .bd6) s = .next { s with result := .word s.sif.bd6 } ∧
    (lookup .P .read 0x1000F200 s = .handler .sif 0x1000F200 → exec .ldMscomP s = .next { s with result := .word s.sif.mscom }) ∧
    (lookup .P .read 0x1000F210 s = .handler .sif 0x1000F210 → exec .ldSmcomP s = .next { s with result := .word s.sif.smcom }) ∧
    (lookup .P .read 0x1000F220 s = .handler .sif 0x1000F220 →
      exec .ldMsflagP s = .next { s with result := .word s.sif.msflag }) ∧
    (lookup .P .read 0x1000F230 s = .handler .sif 0x1000F230 →
      exec .ldSmflagP s = .next { s with result := .word s.sif.smflag }) ∧
    (lookup .P .read 0x1000F240 s = .handler .sif 0x1000F240 → exec .ldCtrlP s = .next { s with result := .word s.sif.ctrl }) ∧
    (lookup .P .read 0x1000F260 s = .handler .sif 0x1000F260 → exec .ldBd6P s = .next { s with result := .word s.sif.bd6 }) ∧
    (lookup .S .read 0x1D000000 s = .handler .sif 0x1D000000 → exec .ldMscomS s = .next { s with result := .word s.sif.mscom }) ∧
    (lookup .S .read 0x1D000010 s = .handler .sif 0x1D000010 → exec .ldSmcomS s = .next { s with result := .word s.sif.smcom }) ∧
    (lookup .S .read 0x1D000020 s = .handler .sif 0x1D000020 →
      exec .ldMsflagS s = .next { s with result := .word s.sif.msflag }) ∧
    (lookup .S .read 0x1D000030 s = .handler .sif 0x1D000030 →
      exec .ldSmflagS s = .next { s with result := .word s.sif.smflag }) ∧
    (lookup .S .read 0x1D000040 s = .handler .sif 0x1D000040 → exec .ldCtrlS s = .next { s with result := .word s.sif.ctrl }) ∧
    (lookup .S .read 0x1D000060 s = .handler .sif 0x1D000060 → exec .ldBd6S s = .next { s with result := .word s.sif.bd6 })

/-- 43_sif.md R360 to R365 by the command 0x51, and by the rows of both domains
through the SIF window: what each side's write does; a cross-side write of MSCOM or SMCOM does nothing. Which side sets
and which side clears MSFLAG and SMFLAG "is the spec's choice" (R362, R363). -/
def Obligations.SifRegisterWrites : Prop :=
  ∀ (s : State) (side : Domain) (v : Word), s.Live →
    exec (.sifWriteMscom .P v) s = .next { s with sif := { s.sif with mscom := v }, result := .none } ∧
    exec (.sifWriteMscom .S v) s = .next { s with result := .none } ∧
    exec (.sifWriteSmcom .S v) s = .next { s with sif := { s.sif with smcom := v }, result := .none } ∧
    exec (.sifWriteSmcom .P v) s = .next { s with result := .none } ∧
    exec (.sifWriteMsflag .P v) s = .next { s with sif := { s.sif with msflag := s.sif.msflag ||| v }, result := .none } ∧
    exec (.sifWriteMsflag .S v) s = .next { s with sif := { s.sif with msflag := s.sif.msflag &&& ~~~v }, result := .none } ∧
    exec (.sifWriteSmflag .S v) s = .next { s with sif := { s.sif with smflag := s.sif.smflag ||| v }, result := .none } ∧
    exec (.sifWriteSmflag .P v) s = .next { s with sif := { s.sif with smflag := s.sif.smflag &&& ~~~v }, result := .none } ∧
    exec (.sifWriteCtrl side v) s = .next { s with sif := { s.sif with ctrl := v }, result := .none } ∧
    exec (.sifWriteBd6 side v) s = .next { s with sif := { s.sif with bd6 := v }, result := .none } ∧
    (lookup .P .write 0x1000F200 s = .handler .sif 0x1000F200 →
      exec (.stMscomP v) s = .next { s with sif := { s.sif with mscom := v }, result := .none }) ∧
    (lookup .S .write 0x1D000000 s = .handler .sif 0x1D000000 → exec (.stMscomS v) s = .next { s with result := .none }) ∧
    (lookup .S .write 0x1D000010 s = .handler .sif 0x1D000010 →
      exec (.stSmcomS v) s = .next { s with sif := { s.sif with smcom := v }, result := .none }) ∧
    (lookup .P .write 0x1000F210 s = .handler .sif 0x1000F210 → exec (.stSmcomP v) s = .next { s with result := .none }) ∧
    (lookup .P .write 0x1000F220 s = .handler .sif 0x1000F220 →
      exec (.stMsflagP v) s = .next { s with sif := { s.sif with msflag := s.sif.msflag ||| v }, result := .none }) ∧
    (lookup .S .write 0x1D000020 s = .handler .sif 0x1D000020 →
      exec (.stMsflagS v) s = .next { s with sif := { s.sif with msflag := s.sif.msflag &&& ~~~v }, result := .none }) ∧
    (lookup .S .write 0x1D000030 s = .handler .sif 0x1D000030 →
      exec (.stSmflagS v) s = .next { s with sif := { s.sif with smflag := s.sif.smflag ||| v }, result := .none }) ∧
    (lookup .P .write 0x1000F230 s = .handler .sif 0x1000F230 →
      exec (.stSmflagP v) s = .next { s with sif := { s.sif with smflag := s.sif.smflag &&& ~~~v }, result := .none }) ∧
    (lookup .P .write 0x1000F240 s = .handler .sif 0x1000F240 →
      exec (.stCtrlP v) s = .next { s with sif := { s.sif with ctrl := v }, result := .none }) ∧
    (lookup .S .write 0x1D000040 s = .handler .sif 0x1D000040 →
      exec (.stCtrlS v) s = .next { s with sif := { s.sif with ctrl := v }, result := .none }) ∧
    (lookup .P .write 0x1000F260 s = .handler .sif 0x1000F260 →
      exec (.stBd6P v) s = .next { s with sif := { s.sif with bd6 := v }, result := .none }) ∧
    (lookup .S .write 0x1D000060 s = .handler .sif 0x1D000060 →
      exec (.stBd6S v) s = .next { s with sif := { s.sif with bd6 := v }, result := .none })

/-- 43_sif.md R366: an access through the SIF window. At a register address of the domain's side a Word access is the
register command and any other width is refused; at any other address it is unmapped, and its `Diag` records the
translated address. -/
def Obligations.SifWindowAccesses : Prop :=
  ∀ (s : State) (d : Domain) (va pa : Word), s.Live →
    (lookup d .read va s = .handler .sif pa →
      (∀ r, pa = SifReg.addr d r →
        (va.toNat % 4 = 0 → exec (.readWord d va) s = exec (.sifReadRegister d r) s) ∧
        Raises (.readByte d va) (.registerWidth pa .w8) s ∧
        (va.toNat % 2 = 0 → Raises (.readHalf d va) (.registerWidth pa .w16) s) ∧
        (va.toNat % 8 = 0 → Raises (.readDouble d va) (.registerWidth pa .w64) s)) ∧
      ((∀ r, pa ≠ SifReg.addr d r) →
        exec (.readByte d va) s = .next { s with out := s.out ++ [.diag .read d 1 pa none], result := .byte 0 } ∧
        (va.toNat % 2 = 0 →
          exec (.readHalf d va) s = .next { s with out := s.out ++ [.diag .read d 2 pa none], result := .half 0 }) ∧
        (va.toNat % 4 = 0 →
          exec (.readWord d va) s = .next { s with out := s.out ++ [.diag .read d 4 pa none], result := .word 0 }) ∧
        (va.toNat % 8 = 0 →
          exec (.readDouble d va) s = .next { s with out := s.out ++ [.diag .read d 8 pa none], result := .double 0 }))) ∧
    (lookup d .write va s = .handler .sif pa →
      (∀ r, pa = SifReg.addr d r →
        (va.toNat % 4 = 0 → ∀ v, exec (.writeWord d va v) s = exec (sifWriteInstr d r v) s) ∧
        (∀ v, Raises (.writeByte d va v) (.registerWidth pa .w8) s) ∧
        (va.toNat % 2 = 0 → ∀ v, Raises (.writeHalf d va v) (.registerWidth pa .w16) s) ∧
        (va.toNat % 8 = 0 → ∀ v, Raises (.writeDouble d va v) (.registerWidth pa .w64) s)) ∧
      ((∀ r, pa ≠ SifReg.addr d r) →
        (∀ v, exec (.writeByte d va v) s =
          .next { s with out := s.out ++ [.diag .write d 1 pa (some (v.setWidth 64))], result := .none }) ∧
        (va.toNat % 2 = 0 → ∀ v, exec (.writeHalf d va v) s =
          .next { s with out := s.out ++ [.diag .write d 2 pa (some (v.setWidth 64))], result := .none }) ∧
        (va.toNat % 4 = 0 → ∀ v, exec (.writeWord d va v) s =
          .next { s with out := s.out ++ [.diag .write d 4 pa (some (v.setWidth 64))], result := .none }) ∧
        (va.toNat % 8 = 0 → ∀ v, exec (.writeDouble d va v) s =
          .next { s with out := s.out ++ [.diag .write d 8 pa (some v)], result := .none })))

/-! ## `Run` as a whole, and neighbouring pages -/

/-- 42_dma_transfer.md R300, for any set of eligible channels: `Run` is the steps of channels 0 to 12 in ascending
order, each eligible one making one step; a step that raises is the last, and its fault is recorded. What a step does is
in the statements about the transfer engine above, kind by kind. -/
def Obligations.RunStepsChannelsInOrder : Prop :=
  ∀ s : State, s.Live →
    ∃ t e, RunSteps [0, 1, 2, 3, 4, 5, 6, 7, 8, 9, 10, 11, 12] { s with result := .none } t e ∧
      ∀ n, exec (.dmaRun n) s = .next { t with fault := e.bind (raisedBy (.dmaRun n)) }

/-- 10_state.md R36 (a) as far as it can hold beside 40_address_space.md R200, whose own example maps a store four times
over one window (log 21, the model's choice): neighbouring pages that one registration maps lie in its store, and their
offsets differ by exactly one page where the mask keeps every bit in which the two page addresses differ, and only there.
With a mask that mirrors, the next offset is one page further in the mirror, and 0 again at its end. Both entries stay as
they are whatever commands follow (R36, "kept by every command"): the check pass of R200 refuses a mapped page. -/
def Obligations.NeighbouringPagesAreContiguousUnderTheMask : Prop :=
  ∀ (s t : State) (d : Domain) (vstart : Word) (vend : Nat) (mask : Word) (st : Store) (p : Nat), s.Live →
    exec (.registerRegion d vstart vend mask st) s = .next t → t.Live →
    p % 4096 = 0 → vstart.toNat ≤ p → p + 4096 < vend →
    ∃ e e', (t.space d).pageEntry p = some e ∧ (t.space d).pageEntry (p + 4096) = some e' ∧
      e.store = st ∧ e'.store = st ∧
      (e'.off = e.off + 4096 ↔ (p ^^^ (p + 4096)) &&& mask.toNat = p ^^^ (p + 4096)) ∧
      (∀ k, mask.toNat = 2 ^ k - 1 → e'.off = (e.off + 4096) % 2 ^ k) ∧
      ∀ (is : List Instr) (u : State), execAll is t = some u →
        (u.space d).pageEntry p = some e ∧ (u.space d).pageEntry (p + 4096) = some e'
end

