-- ==== Sys2Proof/Laws/State.lean ====
section
/-! SUPPORT. One lemma per field and update of the state, so that no proof unfolds a record update. -/

namespace Sys2Proof.Machine

variable (s : State)

/-! ### emitAll -/

@[simp] theorem State.emitAll_asP (es : List Event) : (s.emitAll es).asP = s.asP := rfl
@[simp] theorem State.emitAll_asS (es : List Event) : (s.emitAll es).asS = s.asS := rfl
@[simp] theorem State.emitAll_stores (es : List Event) : (s.emitAll es).stores = s.stores := rfl
@[simp] theorem State.emitAll_ch (es : List Event) : (s.emitAll es).ch = s.ch := rfl
@[simp] theorem State.emitAll_dpcr0 (es : List Event) : (s.emitAll es).dpcr0 = s.dpcr0 := rfl
@[simp] theorem State.emitAll_dpcr1 (es : List Event) : (s.emitAll es).dpcr1 = s.dpcr1 := rfl
@[simp] theorem State.emitAll_latch0 (es : List Event) : (s.emitAll es).latch0 = s.latch0 := rfl
@[simp] theorem State.emitAll_latch1 (es : List Event) : (s.emitAll es).latch1 = s.latch1 := rfl
@[simp] theorem State.emitAll_dmacen (es : List Event) : (s.emitAll es).dmacen = s.dmacen := rfl
@[simp] theorem State.emitAll_dmacinten (es : List Event) : (s.emitAll es).dmacinten = s.dmacinten := rfl
@[simp] theorem State.emitAll_sif (es : List Event) : (s.emitAll es).sif = s.sif := rfl
@[simp] theorem State.emitAll_fault (es : List Event) : (s.emitAll es).fault = s.fault := rfl
@[simp] theorem State.emitAll_params (es : List Event) : (s.emitAll es).params = s.params := rfl
@[simp] theorem State.emitAll_draws (es : List Event) : (s.emitAll es).draws = s.draws := rfl
@[simp] theorem State.emitAll_result (es : List Event) : (s.emitAll es).result = s.result := rfl
@[simp] theorem State.emitAll_port (es : List Event) : (s.emitAll es).port = s.port := rfl
@[simp] theorem State.emitAll_space (es : List Event) (d' : Domain) : (s.emitAll es).space d' = s.space d' := by cases d' <;> rfl
@[simp] theorem State.emitAll_chan (es : List Event) (c' : Fin 13) : (s.emitAll es).chan c' = s.chan c' := rfl
@[simp] theorem State.emitAll_dpcr (es : List Event) (h' : Half) : (s.emitAll es).dpcr h' = s.dpcr h' := by cases h' <;> rfl
@[simp] theorem State.emitAll_latch (es : List Event) (h' : Half) : (s.emitAll es).latch h' = s.latch h' := by cases h' <;> rfl
@[simp] theorem State.emitAll_fifo (es : List Event) (side' : FifoSide) : (s.emitAll es).fifo side' = s.fifo side' := by cases side' <;> rfl
@[simp] theorem State.emitAll_kind (es : List Event) (c' : Fin 13) : (s.emitAll es).kind c' = s.kind c' := rfl
@[simp] theorem State.emitAll_byteAt (es : List Event) (st' : Store) (off' : Nat) : (s.emitAll es).byteAt st' off' = s.byteAt st' off' := rfl

/-! ### emit -/

@[simp] theorem State.emit_asP (e : Event) : (s.emit e).asP = s.asP := rfl
@[simp] theorem State.emit_asS (e : Event) : (s.emit e).asS = s.asS := rfl
@[simp] theorem State.emit_stores (e : Event) : (s.emit e).stores = s.stores := rfl
@[simp] theorem State.emit_ch (e : Event) : (s.emit e).ch = s.ch := rfl
@[simp] theorem State.emit_dpcr0 (e : Event) : (s.emit e).dpcr0 = s.dpcr0 := rfl
@[simp] theorem State.emit_dpcr1 (e : Event) : (s.emit e).dpcr1 = s.dpcr1 := rfl
@[simp] theorem State.emit_latch0 (e : Event) : (s.emit e).latch0 = s.latch0 := rfl
@[simp] theorem State.emit_latch1 (e : Event) : (s.emit e).latch1 = s.latch1 := rfl
@[simp] theorem State.emit_dmacen (e : Event) : (s.emit e).dmacen = s.dmacen := rfl
@[simp] theorem State.emit_dmacinten (e : Event) : (s.emit e).dmacinten = s.dmacinten := rfl
@[simp] theorem State.emit_sif (e : Event) : (s.emit e).sif = s.sif := rfl
@[simp] theorem State.emit_fault (e : Event) : (s.emit e).fault = s.fault := rfl
@[simp] theorem State.emit_params (e : Event) : (s.emit e).params = s.params := rfl
@[simp] theorem State.emit_draws (e : Event) : (s.emit e).draws = s.draws := rfl
@[simp] theorem State.emit_result (e : Event) : (s.emit e).result = s.result := rfl
@[simp] theorem State.emit_port (e : Event) : (s.emit e).port = s.port := rfl
@[simp] theorem State.emit_space (e : Event) (d' : Domain) : (s.emit e).space d' = s.space d' := by cases d' <;> rfl
@[simp] theorem State.emit_chan (e : Event) (c' : Fin 13) : (s.emit e).chan c' = s.chan c' := rfl
@[simp] theorem State.emit_dpcr (e : Event) (h' : Half) : (s.emit e).dpcr h' = s.dpcr h' := by cases h' <;> rfl
@[simp] theorem State.emit_latch (e : Event) (h' : Half) : (s.emit e).latch h' = s.latch h' := by cases h' <;> rfl
@[simp] theorem State.emit_fifo (e : Event) (side' : FifoSide) : (s.emit e).fifo side' = s.fifo side' := by cases side' <;> rfl
@[simp] theorem State.emit_kind (e : Event) (c' : Fin 13) : (s.emit e).kind c' = s.kind c' := rfl
@[simp] theorem State.emit_byteAt (e : Event) (st' : Store) (off' : Nat) : (s.emit e).byteAt st' off' = s.byteAt st' off' := rfl

/-! ### putByte -/

@[simp] theorem State.putByte_asP (st : Store) (off : Nat) (b : Byte) : (s.putByte st off b).asP = s.asP := rfl
@[simp] theorem State.putByte_asS (st : Store) (off : Nat) (b : Byte) : (s.putByte st off b).asS = s.asS := rfl
@[simp] theorem State.putByte_ch (st : Store) (off : Nat) (b : Byte) : (s.putByte st off b).ch = s.ch := rfl
@[simp] theorem State.putByte_dpcr0 (st : Store) (off : Nat) (b : Byte) : (s.putByte st off b).dpcr0 = s.dpcr0 := rfl
@[simp] theorem State.putByte_dpcr1 (st : Store) (off : Nat) (b : Byte) : (s.putByte st off b).dpcr1 = s.dpcr1 := rfl
@[simp] theorem State.putByte_latch0 (st : Store) (off : Nat) (b : Byte) : (s.putByte st off b).latch0 = s.latch0 := rfl
@[simp] theorem State.putByte_latch1 (st : Store) (off : Nat) (b : Byte) : (s.putByte st off b).latch1 = s.latch1 := rfl
@[simp] theorem State.putByte_dmacen (st : Store) (off : Nat) (b : Byte) : (s.putByte st off b).dmacen = s.dmacen := rfl
@[simp] theorem State.putByte_dmacinten (st : Store) (off : Nat) (b : Byte) : (s.putByte st off b).dmacinten = s.dmacinten := rfl
@[simp] theorem State.putByte_sif (st : Store) (off : Nat) (b : Byte) : (s.putByte st off b).sif = s.sif := rfl
@[simp] theorem State.putByte_fault (st : Store) (off : Nat) (b : Byte) : (s.putByte st off b).fault = s.fault := rfl
@[simp] theorem State.putByte_out (st : Store) (off : Nat) (b : Byte) : (s.putByte st off b).out = s.out := rfl
@[simp] theorem State.putByte_params (st : Store) (off : Nat) (b : Byte) : (s.putByte st off b).params = s.params := rfl
@[simp] theorem State.putByte_draws (st : Store) (off : Nat) (b : Byte) : (s.putByte st off b).draws = s.draws := rfl
@[simp] theorem State.putByte_result (st : Store) (off : Nat) (b : Byte) : (s.putByte st off b).result = s.result := rfl
@[simp] theorem State.putByte_port (st : Store) (off : Nat) (b : Byte) : (s.putByte st off b).port = s.port := rfl
@[simp] theorem State.putByte_space (st : Store) (off : Nat) (b : Byte) (d' : Domain) : (s.putByte st off b).space d' = s.space d' := by cases d' <;> rfl
@[simp] theorem State.putByte_chan (st : Store) (off : Nat) (b : Byte) (c' : Fin 13) : (s.putByte st off b).chan c' = s.chan c' := rfl
@[simp] theorem State.putByte_dpcr (st : Store) (off : Nat) (b : Byte) (h' : Half) : (s.putByte st off b).dpcr h' = s.dpcr h' := by cases h' <;> rfl
@[simp] theorem State.putByte_latch (st : Store) (off : Nat) (b : Byte) (h' : Half) : (s.putByte st off b).latch h' = s.latch h' := by cases h' <;> rfl
@[simp] theorem State.putByte_fifo (st : Store) (off : Nat) (b : Byte) (side' : FifoSide) : (s.putByte st off b).fifo side' = s.fifo side' := by cases side' <;> rfl
@[simp] theorem State.putByte_kind (st : Store) (off : Nat) (b : Byte) (c' : Fin 13) : (s.putByte st off b).kind c' = s.kind c' := rfl

/-! ### setChan -/

@[simp] theorem State.setChan_asP (c : Fin 13) (v : Channel) : (s.setChan c v).asP = s.asP := rfl
@[simp] theorem State.setChan_asS (c : Fin 13) (v : Channel) : (s.setChan c v).asS = s.asS := rfl
@[simp] theorem State.setChan_stores (c : Fin 13) (v : Channel) : (s.setChan c v).stores = s.stores := rfl
@[simp] theorem State.setChan_dpcr0 (c : Fin 13) (v : Channel) : (s.setChan c v).dpcr0 = s.dpcr0 := rfl
@[simp] theorem State.setChan_dpcr1 (c : Fin 13) (v : Channel) : (s.setChan c v).dpcr1 = s.dpcr1 := rfl
@[simp] theorem State.setChan_latch0 (c : Fin 13) (v : Channel) : (s.setChan c v).latch0 = s.latch0 := rfl
@[simp] theorem State.setChan_latch1 (c : Fin 13) (v : Channel) : (s.setChan c v).latch1 = s.latch1 := rfl
@[simp] theorem State.setChan_dmacen (c : Fin 13) (v : Channel) : (s.setChan c v).dmacen = s.dmacen := rfl
@[simp] theorem State.setChan_dmacinten (c : Fin 13) (v : Channel) : (s.setChan c v).dmacinten = s.dmacinten := rfl
@[simp] theorem State.setChan_sif (c : Fin 13) (v : Channel) : (s.setChan c v).sif = s.sif := rfl
@[simp] theorem State.setChan_fault (c : Fin 13) (v : Channel) : (s.setChan c v).fault = s.fault := rfl
@[simp] theorem State.setChan_out (c : Fin 13) (v : Channel) : (s.setChan c v).out = s.out := rfl
@[simp] theorem State.setChan_params (c : Fin 13) (v : Channel) : (s.setChan c v).params = s.params := rfl
@[simp] theorem State.setChan_draws (c : Fin 13) (v : Channel) : (s.setChan c v).draws = s.draws := rfl
@[simp] theorem State.setChan_result (c : Fin 13) (v : Channel) : (s.setChan c v).result = s.result := rfl
@[simp] theorem State.setChan_port (c : Fin 13) (v : Channel) : (s.setChan c v).port = s.port := rfl
@[simp] theorem State.setChan_space (c : Fin 13) (v : Channel) (d' : Domain) : (s.setChan c v).space d' = s.space d' := by cases d' <;> rfl
@[simp] theorem State.setChan_dpcr (c : Fin 13) (v : Channel) (h' : Half) : (s.setChan c v).dpcr h' = s.dpcr h' := by cases h' <;> rfl
@[simp] theorem State.setChan_latch (c : Fin 13) (v : Channel) (h' : Half) : (s.setChan c v).latch h' = s.latch h' := by cases h' <;> rfl
@[simp] theorem State.setChan_fifo (c : Fin 13) (v : Channel) (side' : FifoSide) : (s.setChan c v).fifo side' = s.fifo side' := by cases side' <;> rfl
@[simp] theorem State.setChan_kind (c : Fin 13) (v : Channel) (c' : Fin 13) : (s.setChan c v).kind c' = s.kind c' := rfl
@[simp] theorem State.setChan_byteAt (c : Fin 13) (v : Channel) (st' : Store) (off' : Nat) : (s.setChan c v).byteAt st' off' = s.byteAt st' off' := rfl

/-! ### setDpcr -/

@[simp] theorem State.setDpcr_asP (h : Half) (v : Word) : (s.setDpcr h v).asP = s.asP := by cases h <;> rfl
@[simp] theorem State.setDpcr_asS (h : Half) (v : Word) : (s.setDpcr h v).asS = s.asS := by cases h <;> rfl
@[simp] theorem State.setDpcr_stores (h : Half) (v : Word) : (s.setDpcr h v).stores = s.stores := by cases h <;> rfl
@[simp] theorem State.setDpcr_ch (h : Half) (v : Word) : (s.setDpcr h v).ch = s.ch := by cases h <;> rfl
@[simp] theorem State.setDpcr_latch0 (h : Half) (v : Word) : (s.setDpcr h v).latch0 = s.latch0 := by cases h <;> rfl
@[simp] theorem State.setDpcr_latch1 (h : Half) (v : Word) : (s.setDpcr h v).latch1 = s.latch1 := by cases h <;> rfl
@[simp] theorem State.setDpcr_dmacen (h : Half) (v : Word) : (s.setDpcr h v).dmacen = s.dmacen := by cases h <;> rfl
@[simp] theorem State.setDpcr_dmacinten (h : Half) (v : Word) : (s.setDpcr h v).dmacinten = s.dmacinten := by cases h <;> rfl
@[simp] theorem State.setDpcr_sif (h : Half) (v : Word) : (s.setDpcr h v).sif = s.sif := by cases h <;> rfl
@[simp] theorem State.setDpcr_fault (h : Half) (v : Word) : (s.setDpcr h v).fault = s.fault := by cases h <;> rfl
@[simp] theorem State.setDpcr_out (h : Half) (v : Word) : (s.setDpcr h v).out = s.out := by cases h <;> rfl
@[simp] theorem State.setDpcr_params (h : Half) (v : Word) : (s.setDpcr h v).params = s.params := by cases h <;> rfl
@[simp] theorem State.setDpcr_draws (h : Half) (v : Word) : (s.setDpcr h v).draws = s.draws := by cases h <;> rfl
@[simp] theorem State.setDpcr_result (h : Half) (v : Word) : (s.setDpcr h v).result = s.result := by cases h <;> rfl
@[simp] theorem State.setDpcr_port (h : Half) (v : Word) : (s.setDpcr h v).port = s.port := by cases h <;> rfl
@[simp] theorem State.setDpcr_space (h : Half) (v : Word) (d' : Domain) : (s.setDpcr h v).space d' = s.space d' := by cases h <;> cases d' <;> rfl
@[simp] theorem State.setDpcr_chan (h : Half) (v : Word) (c' : Fin 13) : (s.setDpcr h v).chan c' = s.chan c' := by cases h <;> rfl
@[simp] theorem State.setDpcr_latch (h : Half) (v : Word) (h' : Half) : (s.setDpcr h v).latch h' = s.latch h' := by cases h <;> cases h' <;> rfl
@[simp] theorem State.setDpcr_fifo (h : Half) (v : Word) (side' : FifoSide) : (s.setDpcr h v).fifo side' = s.fifo side' := by cases h <;> cases side' <;> rfl
@[simp] theorem State.setDpcr_kind (h : Half) (v : Word) (c' : Fin 13) : (s.setDpcr h v).kind c' = s.kind c' := by cases h <;> rfl
@[simp] theorem State.setDpcr_byteAt (h : Half) (v : Word) (st' : Store) (off' : Nat) : (s.setDpcr h v).byteAt st' off' = s.byteAt st' off' := by cases h <;> rfl

/-! ### setLatch -/

@[simp] theorem State.setLatch_asP (h : Half) (l : Latch) : (s.setLatch h l).asP = s.asP := by cases h <;> rfl
@[simp] theorem State.setLatch_asS (h : Half) (l : Latch) : (s.setLatch h l).asS = s.asS := by cases h <;> rfl
@[simp] theorem State.setLatch_stores (h : Half) (l : Latch) : (s.setLatch h l).stores = s.stores := by cases h <;> rfl
@[simp] theorem State.setLatch_ch (h : Half) (l : Latch) : (s.setLatch h l).ch = s.ch := by cases h <;> rfl
@[simp] theorem State.setLatch_dpcr0 (h : Half) (l : Latch) : (s.setLatch h l).dpcr0 = s.dpcr0 := by cases h <;> rfl
@[simp] theorem State.setLatch_dpcr1 (h : Half) (l : Latch) : (s.setLatch h l).dpcr1 = s.dpcr1 := by cases h <;> rfl
@[simp] theorem State.setLatch_dmacen (h : Half) (l : Latch) : (s.setLatch h l).dmacen = s.dmacen := by cases h <;> rfl
@[simp] theorem State.setLatch_dmacinten (h : Half) (l : Latch) : (s.setLatch h l).dmacinten = s.dmacinten := by cases h <;> rfl
@[simp] theorem State.setLatch_sif (h : Half) (l : Latch) : (s.setLatch h l).sif = s.sif := by cases h <;> rfl
@[simp] theorem State.setLatch_fault (h : Half) (l : Latch) : (s.setLatch h l).fault = s.fault := by cases h <;> rfl
@[simp] theorem State.setLatch_out (h : Half) (l : Latch) : (s.setLatch h l).out = s.out := by cases h <;> rfl
@[simp] theorem State.setLatch_params (h : Half) (l : Latch) : (s.setLatch h l).params = s.params := by cases h <;> rfl
@[simp] theorem State.setLatch_draws (h : Half) (l : Latch) : (s.setLatch h l).draws = s.draws := by cases h <;> rfl
@[simp] theorem State.setLatch_result (h : Half) (l : Latch) : (s.setLatch h l).result = s.result := by cases h <;> rfl
@[simp] theorem State.setLatch_port (h : Half) (l : Latch) : (s.setLatch h l).port = s.port := by cases h <;> rfl
@[simp] theorem State.setLatch_space (h : Half) (l : Latch) (d' : Domain) : (s.setLatch h l).space d' = s.space d' := by cases h <;> cases d' <;> rfl
@[simp] theorem State.setLatch_chan (h : Half) (l : Latch) (c' : Fin 13) : (s.setLatch h l).chan c' = s.chan c' := by cases h <;> rfl
@[simp] theorem State.setLatch_dpcr (h : Half) (l : Latch) (h' : Half) : (s.setLatch h l).dpcr h' = s.dpcr h' := by cases h <;> cases h' <;> rfl
@[simp] theorem State.setLatch_fifo (h : Half) (l : Latch) (side' : FifoSide) : (s.setLatch h l).fifo side' = s.fifo side' := by cases h <;> cases side' <;> rfl
@[simp] theorem State.setLatch_kind (h : Half) (l : Latch) (c' : Fin 13) : (s.setLatch h l).kind c' = s.kind c' := by cases h <;> rfl
@[simp] theorem State.setLatch_byteAt (h : Half) (l : Latch) (st' : Store) (off' : Nat) : (s.setLatch h l).byteAt st' off' = s.byteAt st' off' := by cases h <;> rfl

/-! ### setSpace -/

@[simp] theorem State.setSpace_stores (d : Domain) (as : AddrSpace) : (s.setSpace d as).stores = s.stores := by cases d <;> rfl
@[simp] theorem State.setSpace_ch (d : Domain) (as : AddrSpace) : (s.setSpace d as).ch = s.ch := by cases d <;> rfl
@[simp] theorem State.setSpace_dpcr0 (d : Domain) (as : AddrSpace) : (s.setSpace d as).dpcr0 = s.dpcr0 := by cases d <;> rfl
@[simp] theorem State.setSpace_dpcr1 (d : Domain) (as : AddrSpace) : (s.setSpace d as).dpcr1 = s.dpcr1 := by cases d <;> rfl
@[simp] theorem State.setSpace_latch0 (d : Domain) (as : AddrSpace) : (s.setSpace d as).latch0 = s.latch0 := by cases d <;> rfl
@[simp] theorem State.setSpace_latch1 (d : Domain) (as : AddrSpace) : (s.setSpace d as).latch1 = s.latch1 := by cases d <;> rfl
@[simp] theorem State.setSpace_dmacen (d : Domain) (as : AddrSpace) : (s.setSpace d as).dmacen = s.dmacen := by cases d <;> rfl
@[simp] theorem State.setSpace_dmacinten (d : Domain) (as : AddrSpace) : (s.setSpace d as).dmacinten = s.dmacinten := by cases d <;> rfl
@[simp] theorem State.setSpace_sif (d : Domain) (as : AddrSpace) : (s.setSpace d as).sif = s.sif := by cases d <;> rfl
@[simp] theorem State.setSpace_fault (d : Domain) (as : AddrSpace) : (s.setSpace d as).fault = s.fault := by cases d <;> rfl
@[simp] theorem State.setSpace_out (d : Domain) (as : AddrSpace) : (s.setSpace d as).out = s.out := by cases d <;> rfl
@[simp] theorem State.setSpace_params (d : Domain) (as : AddrSpace) : (s.setSpace d as).params = s.params := by cases d <;> rfl
@[simp] theorem State.setSpace_draws (d : Domain) (as : AddrSpace) : (s.setSpace d as).draws = s.draws := by cases d <;> rfl
@[simp] theorem State.setSpace_result (d : Domain) (as : AddrSpace) : (s.setSpace d as).result = s.result := by cases d <;> rfl
@[simp] theorem State.setSpace_port (d : Domain) (as : AddrSpace) : (s.setSpace d as).port = s.port := by cases d <;> rfl
@[simp] theorem State.setSpace_chan (d : Domain) (as : AddrSpace) (c' : Fin 13) : (s.setSpace d as).chan c' = s.chan c' := by cases d <;> rfl
@[simp] theorem State.setSpace_dpcr (d : Domain) (as : AddrSpace) (h' : Half) : (s.setSpace d as).dpcr h' = s.dpcr h' := by cases d <;> cases h' <;> rfl
@[simp] theorem State.setSpace_latch (d : Domain) (as : AddrSpace) (h' : Half) : (s.setSpace d as).latch h' = s.latch h' := by cases d <;> cases h' <;> rfl
@[simp] theorem State.setSpace_fifo (d : Domain) (as : AddrSpace) (side' : FifoSide) : (s.setSpace d as).fifo side' = s.fifo side' := by cases d <;> cases side' <;> rfl
@[simp] theorem State.setSpace_kind (d : Domain) (as : AddrSpace) (c' : Fin 13) : (s.setSpace d as).kind c' = s.kind c' := by cases d <;> rfl
@[simp] theorem State.setSpace_byteAt (d : Domain) (as : AddrSpace) (st' : Store) (off' : Nat) : (s.setSpace d as).byteAt st' off' = s.byteAt st' off' := by cases d <;> rfl

/-! ### setFifo -/

@[simp] theorem State.setFifo_asP (side : FifoSide) (ws : List Word) : (s.setFifo side ws).asP = s.asP := by cases side <;> rfl
@[simp] theorem State.setFifo_asS (side : FifoSide) (ws : List Word) : (s.setFifo side ws).asS = s.asS := by cases side <;> rfl
@[simp] theorem State.setFifo_stores (side : FifoSide) (ws : List Word) : (s.setFifo side ws).stores = s.stores := by cases side <;> rfl
@[simp] theorem State.setFifo_ch (side : FifoSide) (ws : List Word) : (s.setFifo side ws).ch = s.ch := by cases side <;> rfl
@[simp] theorem State.setFifo_dpcr0 (side : FifoSide) (ws : List Word) : (s.setFifo side ws).dpcr0 = s.dpcr0 := by cases side <;> rfl
@[simp] theorem State.setFifo_dpcr1 (side : FifoSide) (ws : List Word) : (s.setFifo side ws).dpcr1 = s.dpcr1 := by cases side <;> rfl
@[simp] theorem State.setFifo_latch0 (side : FifoSide) (ws : List Word) : (s.setFifo side ws).latch0 = s.latch0 := by cases side <;> rfl
@[simp] theorem State.setFifo_latch1 (side : FifoSide) (ws : List Word) : (s.setFifo side ws).latch1 = s.latch1 := by cases side <;> rfl
@[simp] theorem State.setFifo_dmacen (side : FifoSide) (ws : List Word) : (s.setFifo side ws).dmacen = s.dmacen := by cases side <;> rfl
@[simp] theorem State.setFifo_dmacinten (side : FifoSide) (ws : List Word) : (s.setFifo side ws).dmacinten = s.dmacinten := by cases side <;> rfl
@[simp] theorem State.setFifo_fault (side : FifoSide) (ws : List Word) : (s.setFifo side ws).fault = s.fault := by cases side <;> rfl
@[simp] theorem State.setFifo_out (side : FifoSide) (ws : List Word) : (s.setFifo side ws).out = s.out := by cases side <;> rfl
@[simp] theorem State.setFifo_params (side : FifoSide) (ws : List Word) : (s.setFifo side ws).params = s.params := by cases side <;> rfl
@[simp] theorem State.setFifo_draws (side : FifoSide) (ws : List Word) : (s.setFifo side ws).draws = s.draws := by cases side <;> rfl
@[simp] theorem State.setFifo_result (side : FifoSide) (ws : List Word) : (s.setFifo side ws).result = s.result := by cases side <;> rfl
@[simp] theorem State.setFifo_port (side : FifoSide) (ws : List Word) : (s.setFifo side ws).port = s.port := by cases side <;> rfl
@[simp] theorem State.setFifo_space (side : FifoSide) (ws : List Word) (d' : Domain) : (s.setFifo side ws).space d' = s.space d' := by cases side <;> cases d' <;> rfl
@[simp] theorem State.setFifo_chan (side : FifoSide) (ws : List Word) (c' : Fin 13) : (s.setFifo side ws).chan c' = s.chan c' := by cases side <;> rfl
@[simp] theorem State.setFifo_dpcr (side : FifoSide) (ws : List Word) (h' : Half) : (s.setFifo side ws).dpcr h' = s.dpcr h' := by cases side <;> cases h' <;> rfl
@[simp] theorem State.setFifo_latch (side : FifoSide) (ws : List Word) (h' : Half) : (s.setFifo side ws).latch h' = s.latch h' := by cases side <;> cases h' <;> rfl
@[simp] theorem State.setFifo_kind (side : FifoSide) (ws : List Word) (c' : Fin 13) : (s.setFifo side ws).kind c' = s.kind c' := by cases side <;> rfl
@[simp] theorem State.setFifo_byteAt (side : FifoSide) (ws : List Word) (st' : Store) (off' : Nat) : (s.setFifo side ws).byteAt st' off' = s.byteAt st' off' := by cases side <;> rfl

/-! ### append -/

@[simp] theorem State.append_asP (side : FifoSide) (ws : List Word) : (s.append side ws).asP = s.asP := by cases side <;> rfl
@[simp] theorem State.append_asS (side : FifoSide) (ws : List Word) : (s.append side ws).asS = s.asS := by cases side <;> rfl
@[simp] theorem State.append_stores (side : FifoSide) (ws : List Word) : (s.append side ws).stores = s.stores := by cases side <;> rfl
@[simp] theorem State.append_ch (side : FifoSide) (ws : List Word) : (s.append side ws).ch = s.ch := by cases side <;> rfl
@[simp] theorem State.append_dpcr0 (side : FifoSide) (ws : List Word) : (s.append side ws).dpcr0 = s.dpcr0 := by cases side <;> rfl
@[simp] theorem State.append_dpcr1 (side : FifoSide) (ws : List Word) : (s.append side ws).dpcr1 = s.dpcr1 := by cases side <;> rfl
@[simp] theorem State.append_latch0 (side : FifoSide) (ws : List Word) : (s.append side ws).latch0 = s.latch0 := by cases side <;> rfl
@[simp] theorem State.append_latch1 (side : FifoSide) (ws : List Word) : (s.append side ws).latch1 = s.latch1 := by cases side <;> rfl
@[simp] theorem State.append_dmacen (side : FifoSide) (ws : List Word) : (s.append side ws).dmacen = s.dmacen := by cases side <;> rfl
@[simp] theorem State.append_dmacinten (side : FifoSide) (ws : List Word) : (s.append side ws).dmacinten = s.dmacinten := by cases side <;> rfl
@[simp] theorem State.append_fault (side : FifoSide) (ws : List Word) : (s.append side ws).fault = s.fault := by cases side <;> rfl
@[simp] theorem State.append_out (side : FifoSide) (ws : List Word) : (s.append side ws).out = s.out := by cases side <;> rfl
@[simp] theorem State.append_params (side : FifoSide) (ws : List Word) : (s.append side ws).params = s.params := by cases side <;> rfl
@[simp] theorem State.append_draws (side : FifoSide) (ws : List Word) : (s.append side ws).draws = s.draws := by cases side <;> rfl
@[simp] theorem State.append_result (side : FifoSide) (ws : List Word) : (s.append side ws).result = s.result := by cases side <;> rfl
@[simp] theorem State.append_port (side : FifoSide) (ws : List Word) : (s.append side ws).port = s.port := by cases side <;> rfl
@[simp] theorem State.append_space (side : FifoSide) (ws : List Word) (d' : Domain) : (s.append side ws).space d' = s.space d' := by cases side <;> cases d' <;> rfl
@[simp] theorem State.append_chan (side : FifoSide) (ws : List Word) (c' : Fin 13) : (s.append side ws).chan c' = s.chan c' := by cases side <;> rfl
@[simp] theorem State.append_dpcr (side : FifoSide) (ws : List Word) (h' : Half) : (s.append side ws).dpcr h' = s.dpcr h' := by cases side <;> cases h' <;> rfl
@[simp] theorem State.append_latch (side : FifoSide) (ws : List Word) (h' : Half) : (s.append side ws).latch h' = s.latch h' := by cases side <;> cases h' <;> rfl
@[simp] theorem State.append_kind (side : FifoSide) (ws : List Word) (c' : Fin 13) : (s.append side ws).kind c' = s.kind c' := by cases side <;> rfl
@[simp] theorem State.append_byteAt (side : FifoSide) (ws : List Word) (st' : Store) (off' : Nat) : (s.append side ws).byteAt st' off' = s.byteAt st' off' := by cases side <;> rfl

/-! ### setSif -/

@[simp] theorem State.setSif_asP (f : Sif) : (s.setSif f).asP = s.asP := rfl
@[simp] theorem State.setSif_asS (f : Sif) : (s.setSif f).asS = s.asS := rfl
@[simp] theorem State.setSif_stores (f : Sif) : (s.setSif f).stores = s.stores := rfl
@[simp] theorem State.setSif_ch (f : Sif) : (s.setSif f).ch = s.ch := rfl
@[simp] theorem State.setSif_dpcr0 (f : Sif) : (s.setSif f).dpcr0 = s.dpcr0 := rfl
@[simp] theorem State.setSif_dpcr1 (f : Sif) : (s.setSif f).dpcr1 = s.dpcr1 := rfl
@[simp] theorem State.setSif_latch0 (f : Sif) : (s.setSif f).latch0 = s.latch0 := rfl
@[simp] theorem State.setSif_latch1 (f : Sif) : (s.setSif f).latch1 = s.latch1 := rfl
@[simp] theorem State.setSif_dmacen (f : Sif) : (s.setSif f).dmacen = s.dmacen := rfl
@[simp] theorem State.setSif_dmacinten (f : Sif) : (s.setSif f).dmacinten = s.dmacinten := rfl
@[simp] theorem State.setSif_fault (f : Sif) : (s.setSif f).fault = s.fault := rfl
@[simp] theorem State.setSif_out (f : Sif) : (s.setSif f).out = s.out := rfl
@[simp] theorem State.setSif_params (f : Sif) : (s.setSif f).params = s.params := rfl
@[simp] theorem State.setSif_draws (f : Sif) : (s.setSif f).draws = s.draws := rfl
@[simp] theorem State.setSif_result (f : Sif) : (s.setSif f).result = s.result := rfl
@[simp] theorem State.setSif_port (f : Sif) : (s.setSif f).port = s.port := rfl
@[simp] theorem State.setSif_space (f : Sif) (d' : Domain) : (s.setSif f).space d' = s.space d' := by cases d' <;> rfl
@[simp] theorem State.setSif_chan (f : Sif) (c' : Fin 13) : (s.setSif f).chan c' = s.chan c' := rfl
@[simp] theorem State.setSif_dpcr (f : Sif) (h' : Half) : (s.setSif f).dpcr h' = s.dpcr h' := by cases h' <;> rfl
@[simp] theorem State.setSif_latch (f : Sif) (h' : Half) : (s.setSif f).latch h' = s.latch h' := by cases h' <;> rfl
@[simp] theorem State.setSif_kind (f : Sif) (c' : Fin 13) : (s.setSif f).kind c' = s.kind c' := rfl
@[simp] theorem State.setSif_byteAt (f : Sif) (st' : Store) (off' : Nat) : (s.setSif f).byteAt st' off' = s.byteAt st' off' := rfl

/-! ### takeItem -/

@[simp] theorem State.takeItem_asP : (s.takeItem).asP = s.asP := rfl
@[simp] theorem State.takeItem_asS : (s.takeItem).asS = s.asS := rfl
@[simp] theorem State.takeItem_stores : (s.takeItem).stores = s.stores := rfl
@[simp] theorem State.takeItem_ch : (s.takeItem).ch = s.ch := rfl
@[simp] theorem State.takeItem_dpcr0 : (s.takeItem).dpcr0 = s.dpcr0 := rfl
@[simp] theorem State.takeItem_dpcr1 : (s.takeItem).dpcr1 = s.dpcr1 := rfl
@[simp] theorem State.takeItem_latch0 : (s.takeItem).latch0 = s.latch0 := rfl
@[simp] theorem State.takeItem_latch1 : (s.takeItem).latch1 = s.latch1 := rfl
@[simp] theorem State.takeItem_dmacen : (s.takeItem).dmacen = s.dmacen := rfl
@[simp] theorem State.takeItem_dmacinten : (s.takeItem).dmacinten = s.dmacinten := rfl
@[simp] theorem State.takeItem_sif : (s.takeItem).sif = s.sif := rfl
@[simp] theorem State.takeItem_fault : (s.takeItem).fault = s.fault := rfl
@[simp] theorem State.takeItem_out : (s.takeItem).out = s.out := rfl
@[simp] theorem State.takeItem_params : (s.takeItem).params = s.params := rfl
@[simp] theorem State.takeItem_draws : (s.takeItem).draws = s.draws := rfl
@[simp] theorem State.takeItem_result : (s.takeItem).result = s.result := rfl
@[simp] theorem State.takeItem_space (d' : Domain) : (s.takeItem).space d' = s.space d' := by cases d' <;> rfl
@[simp] theorem State.takeItem_chan (c' : Fin 13) : (s.takeItem).chan c' = s.chan c' := rfl
@[simp] theorem State.takeItem_dpcr (h' : Half) : (s.takeItem).dpcr h' = s.dpcr h' := by cases h' <;> rfl
@[simp] theorem State.takeItem_latch (h' : Half) : (s.takeItem).latch h' = s.latch h' := by cases h' <;> rfl
@[simp] theorem State.takeItem_fifo (side' : FifoSide) : (s.takeItem).fifo side' = s.fifo side' := by cases side' <;> rfl
@[simp] theorem State.takeItem_kind (c' : Fin 13) : (s.takeItem).kind c' = s.kind c' := rfl
@[simp] theorem State.takeItem_byteAt (st' : Store) (off' : Nat) : (s.takeItem).byteAt st' off' = s.byteAt st' off' := rfl

/-! ### setResult -/

@[simp] theorem State.setResult_asP (r : Result) : (s.setResult r).asP = s.asP := rfl
@[simp] theorem State.setResult_asS (r : Result) : (s.setResult r).asS = s.asS := rfl
@[simp] theorem State.setResult_stores (r : Result) : (s.setResult r).stores = s.stores := rfl
@[simp] theorem State.setResult_ch (r : Result) : (s.setResult r).ch = s.ch := rfl
@[simp] theorem State.setResult_dpcr0 (r : Result) : (s.setResult r).dpcr0 = s.dpcr0 := rfl
@[simp] theorem State.setResult_dpcr1 (r : Result) : (s.setResult r).dpcr1 = s.dpcr1 := rfl
@[simp] theorem State.setResult_latch0 (r : Result) : (s.setResult r).latch0 = s.latch0 := rfl
@[simp] theorem State.setResult_latch1 (r : Result) : (s.setResult r).latch1 = s.latch1 := rfl
@[simp] theorem State.setResult_dmacen (r : Result) : (s.setResult r).dmacen = s.dmacen := rfl
@[simp] theorem State.setResult_dmacinten (r : Result) : (s.setResult r).dmacinten = s.dmacinten := rfl
@[simp] theorem State.setResult_sif (r : Result) : (s.setResult r).sif = s.sif := rfl
@[simp] theorem State.setResult_fault (r : Result) : (s.setResult r).fault = s.fault := rfl
@[simp] theorem State.setResult_out (r : Result) : (s.setResult r).out = s.out := rfl
@[simp] theorem State.setResult_params (r : Result) : (s.setResult r).params = s.params := rfl
@[simp] theorem State.setResult_draws (r : Result) : (s.setResult r).draws = s.draws := rfl
@[simp] theorem State.setResult_port (r : Result) : (s.setResult r).port = s.port := rfl
@[simp] theorem State.setResult_result (r : Result) : (s.setResult r).result = r := rfl
@[simp] theorem State.setResult_setResult (r r' : Result) : (s.setResult r).setResult r' = s.setResult r' := rfl
@[simp] theorem State.setResult_space (r : Result) (d' : Domain) : (s.setResult r).space d' = s.space d' := by cases d' <;> rfl
@[simp] theorem State.setResult_chan (r : Result) (c' : Fin 13) : (s.setResult r).chan c' = s.chan c' := rfl
@[simp] theorem State.setResult_dpcr (r : Result) (h' : Half) : (s.setResult r).dpcr h' = s.dpcr h' := by cases h' <;> rfl
@[simp] theorem State.setResult_latch (r : Result) (h' : Half) : (s.setResult r).latch h' = s.latch h' := by cases h' <;> rfl
@[simp] theorem State.setResult_fifo (r : Result) (side' : FifoSide) : (s.setResult r).fifo side' = s.fifo side' := by cases side' <;> rfl
@[simp] theorem State.setResult_kind (r : Result) (c' : Fin 13) : (s.setResult r).kind c' = s.kind c' := rfl
@[simp] theorem State.setResult_byteAt (r : Result) (st' : Store) (off' : Nat) : (s.setResult r).byteAt st' off' = s.byteAt st' off' := rfl
@[simp] theorem State.setResult_enableBit (r : Result) (c' : Fin 13) : (s.setResult r).enableBit c' = s.enableBit c' := by simp only [State.enableBit]; cases halfOf c' <;> rfl
@[simp] theorem State.setResult_hasRoom (r : Result) (side' : FifoSide) (n' : Nat) : (s.setResult r).hasRoom side' n' = s.hasRoom side' n' := by cases side' <;> rfl
@[simp] theorem State.setResult_eligible (r : Result) (c : Fin 13) : (s.setResult r).eligible c = s.eligible c := by
  simp [State.eligible]

/-! ### What an update changes -/

@[simp] theorem State.emitAll_out (es : List Event) : (s.emitAll es).out = s.out ++ es := rfl

@[simp] theorem State.emit_out (e : Event) : (s.emit e).out = s.out ++ [e] := rfl

@[simp] theorem State.takeItem_port : s.takeItem.port = s.port.tail := rfl

@[simp] theorem State.setSif_sif (f : Sif) : (s.setSif f).sif = f := rfl

@[simp] theorem State.setChan_chan (c c' : Fin 13) (v : Channel) :
    (s.setChan c v).chan c' = if c' = c then v else s.chan c' := by
  by_cases h : c' = c
  · subst h
    simp [State.setChan, State.chan]
  · have hne : c.val ≠ c'.val := fun hv => h (Fin.ext hv.symm)
    simp [State.setChan, State.chan, h, Vector.getElem_set_ne _ _ hne]

@[simp] theorem State.setDpcr_dpcr (h h' : Half) (v : Word) :
    (s.setDpcr h v).dpcr h' = if h' = h then v else s.dpcr h' := by
  cases h <;> cases h' <;> rfl

@[simp] theorem State.setLatch_latch (h h' : Half) (l : Latch) :
    (s.setLatch h l).latch h' = if h' = h then l else s.latch h' := by
  cases h <;> cases h' <;> rfl

@[simp] theorem State.setSpace_space (d d' : Domain) (as : AddrSpace) :
    (s.setSpace d as).space d' = if d' = d then as else s.space d' := by
  cases d <;> cases d' <;> rfl

@[simp] theorem State.setFifo_fifo (side side' : FifoSide) (ws : List Word) :
    (s.setFifo side ws).fifo side' = if side' = side then ws else s.fifo side' := by
  cases side <;> cases side' <;> rfl

@[simp] theorem State.append_fifo (side side' : FifoSide) (ws : List Word) :
    (s.append side ws).fifo side' = if side' = side then s.fifo side' ++ ws else s.fifo side' := by
  cases side <;> cases side' <;> rfl

/-! ### Equality of states through their channels -/

/-- Two channel files with the same channels are the same. -/
theorem chans_ext {a b : Vector Channel 13} (h : ∀ c : Fin 13, a[c.val] = b[c.val]) : a = b :=
  Vector.ext fun i hi => h ⟨i, hi⟩

/-! ### Stores -/

@[simp] theorem Stores.get_set (ss : Stores) (st st' : Store) (m : Memory) :
    (ss.set st m).get st' = if st' = st then m else ss.get st' := by
  cases st <;> cases st' <;> rfl

@[simp] theorem State.putByte_get (st st' : Store) (off : Nat) (b : Byte) :
    (s.putByte st off b).stores.get st' =
      if st' = st then (s.stores.get st).put off b else s.stores.get st' := by
  simp [State.putByte]

end Sys2Proof.Machine
end

