-- ==== Sys2Proof/Laws/Memory.lean ====
section
/-! SUPPORT. The stores: reading back what was written, leaving everything else alone, and keeping the canonical
form (20_memory.md R80, log 6). -/

namespace Sys2Proof.Machine

/-! ### One byte -/

@[simp] theorem Memory.find_put (m : Memory) (a b : Nat) (x : Byte) :
    Memory.find (Memory.put m a x) b = if b = a then some x else Memory.find m b := by
  induction m with
  | nil =>
    by_cases h : b = a
    · simp [Memory.put, Memory.find, h]
    · simp [Memory.put, Memory.find, h, Ne.symm h]
  | cons cell r ih =>
    obtain ⟨k, y⟩ := cell
    by_cases hlt : a < k
    · by_cases h : b = a
      · simp [Memory.put, Memory.find, hlt, h]
      · simp [Memory.put, Memory.find, hlt, h, Ne.symm h]
    · by_cases hk : a = k
      · subst hk
        by_cases h : b = a
        · simp [Memory.put, Memory.find, h]
        · simp [Memory.put, Memory.find, h, Ne.symm h]
      · by_cases h : b = a
        · have hkb : ¬ k = a := fun e => hk e.symm
          have := ih
          rw [if_pos h, h] at this
          simp [Memory.put, Memory.find, hlt, hk, h, hkb, this]
        · simp [Memory.put, Memory.find, hlt, hk, ih, h]

@[simp] theorem Memory.wf_nil : Memory.wf [] = true := rfl

theorem Memory.wf_cons (k : Nat) (x : Byte) (r : Memory) :
    Memory.wf ((k, x) :: r) = true ↔ (∀ cell ∈ r.head?, k < cell.1) ∧ Memory.wf r = true := by
  cases r with
  | nil => simp [Memory.wf]
  | cons cell r => simp [Memory.wf]

/-- The first offset after a write is the written one or the old first one. -/
theorem Memory.head_put (m : Memory) (a : Nat) (x : Byte) :
    ∀ cell ∈ (Memory.put m a x).head?, cell.1 = a ∨ ∃ old ∈ m.head?, cell.1 = old.1 := by
  intro cell hc
  cases m with
  | nil =>
    simp only [Memory.put, List.head?_cons, Option.mem_def, Option.some.injEq] at hc
    exact .inl (by rw [← hc])
  | cons c r =>
    obtain ⟨k, y⟩ := c
    simp only [Memory.put] at hc
    split at hc
    · simp only [List.head?_cons, Option.mem_def, Option.some.injEq] at hc
      exact .inl (by rw [← hc])
    · split at hc
      · simp only [List.head?_cons, Option.mem_def, Option.some.injEq] at hc
        exact .inl (by rw [← hc])
      · simp only [List.head?_cons, Option.mem_def, Option.some.injEq] at hc
        exact .inr ⟨(k, y), by simp, by rw [← hc]⟩

/-- A write keeps the canonical form. -/
theorem Memory.wf_put {m : Memory} (h : Memory.wf m = true) (a : Nat) (x : Byte) :
    Memory.wf (Memory.put m a x) = true := by
  induction m with
  | nil => simp [Memory.put, Memory.wf]
  | cons cell r ih =>
    obtain ⟨k, y⟩ := cell
    have hr := (Memory.wf_cons k y r).1 h
    simp only [Memory.put]
    split
    · exact (Memory.wf_cons _ _ _).2 ⟨by simpa using ‹a < k›, h⟩
    · split
      · rename_i hk
        subst hk
        exact (Memory.wf_cons _ _ _).2 ⟨hr.1, hr.2⟩
      · rename_i hlt hne
        refine (Memory.wf_cons _ _ _).2 ⟨?_, ih hr.2⟩
        intro cell hc
        rcases Memory.head_put r a x cell hc with e | ⟨old, ho, e⟩
        · omega
        · rw [e]
          exact hr.1 old ho

/-- A write lists no offset but its own and the old ones. -/
theorem Memory.mem_put {m : Memory} {a : Nat} {x : Byte} {cell : Host.Cell}
    (h : cell ∈ Memory.put m a x) : cell.1 = a ∨ cell ∈ m := by
  induction m with
  | nil =>
    simp only [Memory.put, List.mem_singleton] at h
    exact .inl (by rw [h])
  | cons c r ih =>
    obtain ⟨k, y⟩ := c
    simp only [Memory.put] at h
    split at h
    · rcases List.mem_cons.1 h with e | e
      · exact .inl (by rw [e])
      · exact .inr e
    · split at h
      · rcases List.mem_cons.1 h with e | e
        · exact .inl (by rw [e])
        · exact .inr (List.mem_cons_of_mem _ e)
      · rcases List.mem_cons.1 h with e | e
        · exact .inr (by rw [e]; exact List.mem_cons_self)
        · rcases ih e with e | e
          · exact .inl e
          · exact .inr (List.mem_cons_of_mem _ e)

/-- A write inside the store keeps it good. -/
theorem Memory.good_put {st : Store} {m : Memory} (h : Memory.Good st m) {a : Nat} (x : Byte)
    (ha : a < Config.storeSize st) : Memory.Good st (Memory.put m a x) :=
  ⟨Memory.wf_put h.1 a x, fun cell hc => (Memory.mem_put hc).elim (fun e => e ▸ ha) (h.2 cell)⟩

/-- Reading a byte after writing one. -/
@[simp] theorem State.byteAt_putByte (s : State) (st st' : Store) (off off' : Nat) (b : Byte) :
    (s.putByte st off b).byteAt st' off' = if st' = st ∧ off' = off then b else s.byteAt st' off' := by
  by_cases h : st' = st
  · subst h
    by_cases ho : off' = off <;> simp [State.byteAt, ho]
  · simp [State.byteAt, h]

/-! ### Several bytes -/

/-- `storeLE` changes the stores and nothing else. -/
theorem State.storeLE_eq (s : State) (st : Store) (off n v : Nat) :
    s.storeLE st off n v = { s with stores := (s.storeLE st off n v).stores } := by
  induction n generalizing s off v with
  | zero => rfl
  | succ n ih =>
    rw [State.storeLE, ih]
    rfl

/-- Bytes outside the stored ones keep their value. -/
theorem State.byteAt_storeLE_outside (s : State) (st st' : Store) (off off' n v : Nat)
    (h : st' ≠ st ∨ off' < off ∨ off + n ≤ off') : (s.storeLE st off n v).byteAt st' off' = s.byteAt st' off' := by
  induction n generalizing s off v with
  | zero => rfl
  | succ n ih =>
    rw [State.storeLE, ih]
    · have : ¬ (st' = st ∧ off' = off) := by
        rintro ⟨h1, h2⟩
        rcases h with h | h | h
        · exact h h1
        · omega
        · omega
      simp [this]
    · rcases h with h | h | h
      · exact .inl h
      · exact .inr (.inl (by omega))
      · exact .inr (.inr (by omega))

/-- The stored bytes are those of the value, the least significant first (20_memory.md R80). -/
theorem State.byteAt_storeLE (s : State) (st : Store) (off n v i : Nat) (hi : i < n) :
    (s.storeLE st off n v).byteAt st (off + i) = BitVec.ofNat 8 (v / 256 ^ i) := by
  induction n generalizing s off v i with
  | zero => omega
  | succ n ih =>
    rw [State.storeLE]
    cases i with
    | zero =>
      have h := State.byteAt_storeLE_outside (s.putByte st off (BitVec.ofNat 8 v)) st st (off + 1) off n (v / 256)
        (.inr (.inl (Nat.lt_add_one off)))
      simpa using h
    | succ j =>
      have := ih (s.putByte st off (BitVec.ofNat 8 v)) (off + 1) (v / 256) j (by omega)
      rw [show off + (j + 1) = off + 1 + j by omega, this, Nat.div_div_eq_div_mul, Nat.pow_succ, Nat.mul_comm]

/-- The value of `n` bytes is below `256 ^ n`. -/
theorem State.loadLE_lt (s : State) (st : Store) (off n : Nat) : s.loadLE st off n < 256 ^ n := by
  induction n generalizing off with
  | zero => simp [State.loadLE]
  | succ n ih =>
    have h := ih (off + 1)
    have hb := (s.byteAt st off).isLt
    rw [State.loadLE, Nat.pow_succ]
    omega

/-- The i-th byte of a value read is the byte at the i-th offset (20_memory.md R80). -/
theorem State.loadLE_byte (s : State) (st : Store) (off n i : Nat) (hi : i < n) :
    s.loadLE st off n / 256 ^ i % 256 = (s.byteAt st (off + i)).toNat := by
  induction n generalizing off i with
  | zero => omega
  | succ n ih =>
    rw [State.loadLE]
    have hb := (s.byteAt st off).isLt
    cases i with
    | zero =>
      simp only [Nat.pow_zero, Nat.div_one, Nat.add_zero]
      omega
    | succ j =>
      have h := ih (off + 1) j (by omega)
      rw [Nat.pow_succ, Nat.mul_comm (256 ^ j) 256, ← Nat.div_div_eq_div_mul,
        show ((s.byteAt st off).toNat + 256 * s.loadLE st (off + 1) n) / 256 = s.loadLE st (off + 1) n by omega,
        h, show off + 1 + j = off + (j + 1) by omega]

/-- A value read where all its bytes are known. -/
theorem State.loadLE_congr {s t : State} {st st' : Store} {off off' n : Nat}
    (h : ∀ i, i < n → s.byteAt st (off + i) = t.byteAt st' (off' + i)) : s.loadLE st off n = t.loadLE st' off' n := by
  induction n generalizing off off' with
  | zero => rfl
  | succ n ih =>
    have h0 := h 0 (by omega)
    simp only [Nat.add_zero] at h0
    rw [State.loadLE, State.loadLE, h0, ih]
    intro i hi
    have := h (i + 1) (by omega)
    rwa [show off + 1 + i = off + (i + 1) by omega, show off' + 1 + i = off' + (i + 1) by omega]

/-- Reading back what was stored. -/
theorem State.loadLE_storeLE (s : State) (st : Store) (off n v : Nat) :
    (s.storeLE st off n v).loadLE st off n = v % 256 ^ n := by
  induction n generalizing s off v with
  | zero => simp [State.loadLE, Nat.mod_one]
  | succ n ih =>
    rw [State.storeLE, State.loadLE, ih,
      State.byteAt_storeLE_outside _ _ _ _ _ _ _ (.inr (.inl (Nat.lt_add_one off)))]
    simp only [State.byteAt_putByte, and_self, if_true, BitVec.toNat_ofNat]
    have e := (Nat.mod_mul (x := v) (a := 256) (b := 256 ^ n)).symm
    rw [← Nat.pow_succ'] at e
    exact e

/-- Storing inside a store keeps every store good. -/
theorem State.storeLE_good (s : State) (st : Store) (off n v : Nat) (h : ∀ st, Memory.Good st (s.stores.get st))
    (hoff : off + n ≤ Config.storeSize st) : ∀ st', Memory.Good st' ((s.storeLE st off n v).stores.get st') := by
  induction n generalizing s off v with
  | zero => exact h
  | succ n ih =>
    rw [State.storeLE]
    refine ih _ _ _ ?_ (by omega)
    intro st'
    rw [State.putByte_get]
    split
    · rename_i e
      subst e
      exact Memory.good_put (h _) _ (by omega)
    · exact h st'

/-- The power-on stores are good. -/
theorem reset_stores_good : ∀ st, Memory.Good st (State.reset.stores.get st) := by
  intro st
  cases st <;> exact ⟨rfl, by simp [State.reset, Stores.get]⟩

end Sys2Proof.Machine
end

