-- ==== Sys2Proof/Laws/Access.lean ====
section
/-! SUPPORT. What the shared operations can do: raise, register writes, `memRead` and `memWrite`. -/

namespace Sys2Proof.Machine

/-! ### Keeps and NoInterruptSent are closed under composition -/

theorem Keeps.refl (s : State) : Keeps s s := ⟨rfl, rfl, rfl, rfl, rfl, [], by simp⟩

theorem Keeps.trans {s t u : State} (h : Keeps s t) (k : Keeps t u) : Keeps s u := by
  obtain ⟨es, he⟩ := h.out
  obtain ⟨fs, hf⟩ := k.out
  exact ⟨k.asP.trans h.asP, k.asS.trans h.asS, k.params.trans h.params, k.port.trans h.port,
    k.fault.trans h.fault, es ++ fs, by rw [hf, he, List.append_assoc]⟩

theorem NoInterruptSent.refl (s : State) : NoInterruptSent s s := ⟨[], by simp⟩

theorem NoInterruptSent.of_out {s t : State} (h : t.out = s.out) : NoInterruptSent s t := ⟨[], by simp [h]⟩

theorem NoInterruptSent.trans {s t u : State} (h : NoInterruptSent s t) (k : NoInterruptSent t u) :
    NoInterruptSent s u := by
  obtain ⟨es, he, hn⟩ := h
  obtain ⟨fs, hf, hm⟩ := k
  refine ⟨es ++ fs, by rw [hf, he, List.append_assoc], fun e hmem => ?_⟩
  rcases List.mem_append.1 hmem with h | h
  · exact hn e h
  · exact hm e h

theorem Keeps.space {s t : State} (h : Keeps s t) (d : Domain) : t.space d = s.space d := by
  cases d
  · exact h.asP
  · exact h.asS

/-- Lookup reads only the address space. -/
theorem lookup_congr {s t : State} (d : Domain) (h : t.space d = s.space d) (dir : Dir) (va : Word) :
    lookup d dir va t = lookup d dir va s := by
  simp only [lookup, h]

/-! ### raise -/

/-- A raise records its cause and its command when no fault is recorded, and does nothing else (60_exceptions.md R400). -/
theorem raise_live {s : State} (h : s.Live) (c : Cause) (who : Issued) :
    raise c who s = { s with fault := some { cause := c, command := who } } := by
  simp [raise, h]

theorem raise_frame (c : Cause) (who : Issued) (s : State) :
    raise c who s = { s with fault := (raise c who s).fault } := by
  unfold raise
  split <;> rfl

/-! ### Commands -/

/-- A frozen block does nothing (10_state.md R60). -/
theorem runCommand_frozen {s : State} {r : FaultRecord} (h : s.fault = some r) (who : Issued)
    (f : State → Reply Result) : runCommand who f s = .next s := by
  simp [runCommand, h]

/-- A command of a live block that ends with a value. -/
theorem runCommand_done {who : Issued} {s t : State} {v : Result} {f : State → Reply Result} (h : s.Live)
    (hf : f (s.setResult .none) = .done v t) : runCommand who f s = .next (t.setResult v) := by
  simp only [runCommand, h, hf]

/-- A command of a live block that raises. -/
theorem runCommand_raised {who : Issued} {s t : State} {c : Cause} {f : State → Reply Result} (h : s.Live)
    (hf : f (s.setResult .none) = .raised c t) : runCommand who f s = .next (raise c who t) := by
  simp only [runCommand, h, hf]

/-- Every command answers a next state. -/
theorem runCommand_next (who : Issued) (f : State → Reply Result) (s : State) : ∃ t, runCommand who f s = .next t := by
  unfold runCommand
  split
  · exact ⟨s, rfl⟩
  · split
    · exact ⟨_, rfl⟩
    · exact ⟨_, rfl⟩

/-- What the next state of a command is: the state itself when frozen; else what its part leaves, with its value, or
with its fault recorded. -/
theorem runCommand_cases {who : Issued} {f : State → Reply Result} {s t : State} (h : runCommand who f s = .next t) :
    (s.fault.isSome = true ∧ t = s) ∨
    (s.Live ∧ ∃ v u, f (s.setResult .none) = .done v u ∧ t = u.setResult v) ∨
    (s.Live ∧ ∃ c u, f (s.setResult .none) = .raised c u ∧ t = raise c who u) := by
  unfold runCommand at h
  split at h
  · rename_i r hr
    cases h
    exact .inl ⟨by simp [hr], rfl⟩
  · rename_i hn
    cases hf : f (s.setResult .none) with
    | done v u =>
      rw [hf] at h
      cases h
      exact .inr (.inl ⟨hn, v, u, rfl, rfl⟩)
    | raised c u =>
      rw [hf] at h
      cases h
      exact .inr (.inr ⟨hn, c, u, rfl, rfl⟩)

@[simp] theorem Reply.state_done {α : Type} (v : α) (s : State) : (Reply.done v s).state = s := rfl

@[simp] theorem Reply.state_raised {α : Type} (c : Cause) (s : State) : (Reply.raised c s : Reply α).state = s := rfl

@[simp] theorem Reply.andThen_done {α β : Type} (v : α) (s : State) (f : α → State → Reply β) :
    (Reply.done v s).andThen f = f v s := rfl

@[simp] theorem Reply.andThen_raised {α β : Type} (c : Cause) (s : State) (f : α → State → Reply β) :
    (Reply.raised c s).andThen f = .raised c s := rfl

/-- A property of states that both parts of a sequence keep is kept by the sequence. -/
theorem Reply.andThen_keeps {α β : Type} {R : State → State → Prop} {s : State} {r : Reply α}
    {f : α → State → Reply β} (htrans : ∀ {s t u}, R s t → R t u → R s u) (h : R s r.state)
    (k : ∀ v t, R t (f v t).state) : R s (r.andThen f).state := by
  cases r with
  | done v t => exact htrans h (k v t)
  | raised c t => exact h

/-- An invariant that both parts of a sequence keep is kept by the sequence. -/
theorem Reply.andThen_inv {α β : Type} {I : State → Prop} {r : Reply α} {f : α → State → Reply β}
    (h : I r.state) (k : ∀ v t, I t → I (f v t).state) : I (r.andThen f).state := by
  cases r with
  | done v t => exact k v t h
  | raised c t => exact h

theorem Reply.noResult_state (r : Reply Unit) : r.noResult.state = r.state := by
  cases r <;> rfl

/-! ### Events -/

theorem emit_keeps (s : State) (e : Event) : Keeps s (s.emit e) := ⟨rfl, rfl, rfl, rfl, rfl, [e], rfl⟩

theorem emit_noInterrupt (s : State) {e : Event} (h : e.isInterrupt = false) : NoInterruptSent s (s.emit e) :=
  ⟨[e], rfl, by simpa using h⟩

/-! ### Reads -/

/-- What a read may change: events and free values drawn. -/
structure ReadFrame (s t : State) : Prop where
  eq : t = { s with out := t.out, draws := t.draws }
  out : NoInterruptSent s t

theorem ReadFrame.refl (s : State) : ReadFrame s s := ⟨rfl, .refl s⟩

theorem ReadFrame.trans {s t u : State} (h : ReadFrame s t) (k : ReadFrame t u) : ReadFrame s u := by
  refine ⟨?_, h.out.trans k.out⟩
  rw [k.eq, h.eq]

theorem ReadFrame.keeps {s t : State} (h : ReadFrame s t) : Keeps s t := by
  obtain ⟨es, he, -⟩ := h.out
  refine ⟨?_, ?_, ?_, ?_, ?_, es, he⟩ <;> rw [h.eq]

theorem emit_readFrame (s : State) {e : Event} (h : e.isInterrupt = false) : ReadFrame s (s.emit e) :=
  ⟨rfl, emit_noInterrupt s h⟩

theorem dmaRead_readFrame (w : Width) (a : Word) (s : State) : ReadFrame s (dmaRead w a s).state := by
  unfold dmaRead
  split
  · exact .refl s
  · exact .refl s
  · exact .refl s

theorem handlerRead_readFrame (d : Domain) (h : Handler) (w : Width) (pa : Word) (s : State) :
    ReadFrame s (handlerRead d h w pa s).state := by
  have device : ∀ d h, ReadFrame s (deviceRead d h w pa s).state := fun d h =>
    ⟨rfl, [.handlerRead d h w pa], rfl, by simp [Event.isInterrupt]⟩
  unfold handlerRead
  split
  · exact dmaRead_readFrame w pa s
  · exact device .P .dma
  · unfold sifHandlerRead
    split
    · split
      · exact .refl s
      · exact .refl s
    · exact emit_readFrame s rfl
  · exact device _ _

/-- A read changes only the events and the free values drawn (20_memory.md R89). -/
theorem memRead_readFrame (d : Domain) (w : Width) (va : Word) (s : State) :
    ReadFrame s (memRead d w va s).state := by
  unfold memRead
  split
  · split
    · exact .refl s
    · exact handlerRead_readFrame _ _ _ _ s
    · exact emit_readFrame s rfl
  · exact .refl s

theorem readCommand_readFrame (d : Domain) (w : Width) (va : Word) (s : State) :
    ReadFrame s (readCommand d w va s).state :=
  Reply.andThen_keeps ReadFrame.trans (memRead_readFrame d w va s) fun _ t => .refl t

/-! ### Invariant of reads -/

theorem Inv.congr {s t : State} (hi : Inv s) (hs : ∀ d, t.space d = s.space d) (hm : t.stores = s.stores)
    (hc : ∀ c, (t.chan c).base = (s.chan c).base) (hl : (t.latch .h1).flags = (s.latch .h1).flags)
    (hp : t.params = s.params) (hf : ∀ side, t.fifo side = s.fifo side) : Inv t := by
  refine ⟨fun d => by rw [hs]; exact hi.space_good d, fun st => by rw [hm]; exact hi.stores_good st,
    fun c => by rw [hc]; exact hi.base_masked c, by rw [hl]; exact hi.no_seventh_flag, fun side => ?_⟩
  intro k hk
  rw [hf]
  exact hi.fifo_fits side k (hp ▸ hk)

theorem ReadFrame.inv {s t : State} (h : ReadFrame s t) (hi : Inv s) : Inv t := by
  rw [h.eq]
  exact hi.congr (fun d => by cases d <;> rfl) rfl (fun _ => rfl) rfl rfl (fun side => by cases side <;> rfl)

/-- Recording a fault keeps the invariant. -/
theorem raise_inv {s : State} (c : Cause) (who : Issued) (hi : Inv s) : Inv (raise c who s) := by
  rw [raise_frame]
  exact hi.congr (fun d => by cases d <;> rfl) rfl (fun _ => rfl) rfl rfl (fun side => by cases side <;> rfl)

/-! ### Writes -/

/-- `baseMask` keeps 24 bits. -/
theorem and_baseMask_lt (v : Word) : (v &&& baseMask).toNat < 2 ^ 24 := by
  have h : (v &&& baseMask) ≤ baseMask := by
    rw [BitVec.le_def, BitVec.toNat_and]
    exact Nat.and_le_right
  have k : baseMask.toNat < 2 ^ 24 := by decide
  exact lt_of_le_of_lt h k

/-- A write of a channel register keeps `base` in 24 bits. -/
theorem writeChan_base_lt (r : ChanReg) (v : Word) (ch : Channel) (h : ch.base.toNat < 2 ^ 24) :
    (writeChan r v ch).base.toNat < 2 ^ 24 := by
  cases r
  · exact and_baseMask_lt v
  all_goals exact h

/-- A latch write sets no flag (41_dma_registers.md R271). -/
theorem Latch.write_flags_le (l : Latch) (v : Word) (i : Nat) (h : l.flags.getLsbD i = false) :
    (l.write v).flags.getLsbD i = false := by
  simp [Latch.write, h]

theorem setChan_inv {s : State} (hi : Inv s) (c : Fin 13) (v : Channel) (hv : v.base.toNat < 2 ^ 24) :
    Inv (s.setChan c v) := by
  refine ⟨fun d => by simpa using hi.space_good d, fun st => by simpa using hi.stores_good st, fun c' => ?_,
    by simpa using hi.no_seventh_flag, fun side k hk => by simpa using hi.fifo_fits side k (by simpa using hk)⟩
  rw [State.setChan_chan]
  split
  · exact hv
  · exact hi.base_masked c'

theorem setLatch_inv {s : State} (hi : Inv s) (h : Half) (l : Latch)
    (hl : h = .h1 → l.flags.getLsbD 6 = false) : Inv (s.setLatch h l) := by
  refine ⟨fun d => by simpa using hi.space_good d, fun st => by simpa using hi.stores_good st,
    fun c' => by simpa using hi.base_masked c', ?_, fun side k hk => by simpa using hi.fifo_fits side k (by simpa using hk)⟩
  rw [State.setLatch_latch]
  split
  · exact hl (by assumption |> Eq.symm)
  · exact hi.no_seventh_flag

theorem writeCtrl_inv {s : State} (hi : Inv s) (r : CtrlReg) (v : Word) : Inv (writeCtrl r v s) := by
  cases r
  · exact hi.congr (fun d => by cases d <;> rfl) rfl (fun _ => rfl) rfl rfl (fun side => by cases side <;> rfl)
  · exact setLatch_inv hi .h0 _ (by simp)
  · exact hi.congr (fun d => by cases d <;> rfl) rfl (fun _ => rfl) rfl rfl (fun side => by cases side <;> rfl)
  · exact setLatch_inv hi .h1 _ fun _ => Latch.write_flags_le _ _ _ hi.no_seventh_flag
  · exact hi.congr (fun d => by cases d <;> rfl) rfl (fun _ => rfl) rfl rfl (fun side => by cases side <;> rfl)
  · exact hi.congr (fun d => by cases d <;> rfl) rfl (fun _ => rfl) rfl rfl (fun side => by cases side <;> rfl)

theorem writeCtrl_keeps (r : CtrlReg) (v : Word) (s : State) : Keeps s (writeCtrl r v s) := by
  cases r <;> exact ⟨rfl, rfl, rfl, rfl, rfl, [], by simp [writeCtrl]⟩

/-- What a write changes: no address space, no parameter, no counter, no returned value, nothing at the port, no
FIFO, and it calls no interrupt controller (60_exceptions.md R412). -/
structure WriteFrame (s t : State) : Prop where
  keeps : Keeps s t
  noInterrupt : NoInterruptSent s t
  fifo : ∀ side, t.fifo side = s.fifo side
  result : t.result = s.result
  draws : t.draws = s.draws

theorem WriteFrame.refl (s : State) : WriteFrame s s := ⟨.refl s, .refl s, fun _ => rfl, rfl, rfl⟩

theorem WriteFrame.trans {s t u : State} (h : WriteFrame s t) (k : WriteFrame t u) : WriteFrame s u :=
  ⟨h.keeps.trans k.keeps, h.noInterrupt.trans k.noInterrupt, fun side => (k.fifo side).trans (h.fifo side),
    k.result.trans h.result, k.draws.trans h.draws⟩

theorem emit_writeFrame (s : State) {e : Event} (h : e.isInterrupt = false) : WriteFrame s (s.emit e) :=
  ⟨emit_keeps s e, emit_noInterrupt s h, fun _ => by simp, rfl, rfl⟩

theorem storeLE_writeFrame (s : State) (st : Store) (off n v : Nat) : WriteFrame s (s.storeLE st off n v) := by
  rw [State.storeLE_eq]
  exact ⟨⟨rfl, rfl, rfl, rfl, rfl, [], by simp⟩, .of_out rfl, fun side => by cases side <;> rfl, rfl, rfl⟩

theorem Sif.write_fifo0 (f : Sif) (side : Domain) (r : SifReg) (v : Word) :
    (f.write side r v).fifo0 = f.fifo0 := by
  cases r <;> cases side <;> rfl

theorem Sif.write_fifo1 (f : Sif) (side : Domain) (r : SifReg) (v : Word) :
    (f.write side r v).fifo1 = f.fifo1 := by
  cases r <;> cases side <;> rfl

theorem sifWrite_fifo (s : State) (d : Domain) (r : SifReg) (v : Word) (side : FifoSide) :
    (s.setSif (s.sif.write d r v)).fifo side = s.fifo side := by
  cases side
  · exact Sif.write_fifo0 ..
  · exact Sif.write_fifo1 ..

theorem sifWrite_writeFrame (s : State) (d : Domain) (r : SifReg) (v : Word) :
    WriteFrame s (s.setSif (s.sif.write d r v)) :=
  ⟨⟨rfl, rfl, rfl, rfl, rfl, [], by simp⟩, .of_out rfl, sifWrite_fifo s d r v, rfl, rfl⟩

theorem sifWrite_inv {s : State} (hi : Inv s) (d : Domain) (r : SifReg) (v : Word) :
    Inv (s.setSif (s.sif.write d r v)) :=
  hi.congr (fun d => by cases d <;> rfl) rfl (fun _ => rfl) rfl rfl (sifWrite_fifo s d r v)

theorem dmaWrite_writeFrame (w : Width) (a : Word) (v : BitVec 64) (s : State) :
    WriteFrame s (dmaWrite w a v s).state := by
  unfold dmaWrite
  split
  · rename_i r _
    exact ⟨writeCtrl_keeps _ _ s, .of_out (by cases r <;> rfl), fun side => by cases r <;> cases side <;> rfl,
      by cases r <;> rfl, by cases r <;> rfl⟩
  · exact ⟨⟨rfl, rfl, rfl, rfl, rfl, [], by simp⟩, .of_out rfl, fun side => by cases side <;> rfl, rfl, rfl⟩
  · exact .refl s

theorem dmaWrite_inv {s : State} (hi : Inv s) (w : Width) (a : Word) (v : BitVec 64) :
    Inv (dmaWrite w a v s).state := by
  unfold dmaWrite
  split
  · exact writeCtrl_inv hi _ _
  · exact setChan_inv hi _ _ (writeChan_base_lt _ _ _ (hi.base_masked _))
  · exact hi

theorem handlerWrite_writeFrame (d : Domain) (h : Handler) (w : Width) (pa : Word) (v : BitVec 64) (s : State) :
    WriteFrame s (handlerWrite d h w pa v s).state := by
  unfold handlerWrite
  split
  · exact dmaWrite_writeFrame w pa v s
  · exact emit_writeFrame s rfl
  · unfold sifHandlerWrite
    split
    · split
      · exact sifWrite_writeFrame s _ _ _
      · exact .refl s
    · exact emit_writeFrame s rfl
  · exact emit_writeFrame s rfl

theorem emit_inv {s : State} (hi : Inv s) (e : Event) : Inv (s.emit e) :=
  hi.congr (fun d => by simp) rfl (fun _ => rfl) rfl rfl (fun side => by simp)

theorem handlerWrite_inv {s : State} (hi : Inv s) (d : Domain) (h : Handler) (w : Width) (pa : Word)
    (v : BitVec 64) : Inv (handlerWrite d h w pa v s).state := by
  unfold handlerWrite
  split
  · exact dmaWrite_inv hi w pa v
  · exact emit_inv hi _
  · unfold sifHandlerWrite
    split
    · split
      · exact sifWrite_inv hi _ _ _
      · exact hi
    · exact emit_inv hi _
  · exact emit_inv hi _

/-- A write keeps what `WriteFrame` says. -/
theorem memWrite_writeFrame (d : Domain) (w : Width) (va : Word) (v : BitVec 64) (s : State) :
    WriteFrame s (memWrite d w va v s).state := by
  unfold memWrite
  split
  · split
    · exact storeLE_writeFrame s _ _ _ _
    · exact emit_writeFrame s rfl
    · exact handlerWrite_writeFrame d _ w _ v s
    · exact emit_writeFrame s rfl
  · exact .refl s

/-! ### The fast path stays inside its store -/

theorem pageOf_mod (pa : Word) : pageOf pa % Config.pageSize = 0 := by
  simp [pageOf]

/-- The page of a good address space lies inside its store (10_state.md R36 d). -/
theorem pageEntry_inside {as : AddrSpace} (h : as.Good) {p : Nat} (hp : p % Config.pageSize = 0) {e : PageEntry}
    (he : as.pageEntry p = some e) : e.off + Config.pageSize ≤ Config.storeSize e.store := by
  unfold AddrSpace.pageEntry at he
  cases hf : as.regions.find? (fun r => r.covers p) with
  | none => simp [hf] at he
  | some r =>
    rw [hf, Option.map_some] at he
    cases he
    exact (h.regions_good r (List.mem_of_find?_eq_some hf)).2.2.2.2 p hp (by simpa using List.find?_some hf)

/-- An aligned access ends in the page it starts in (40_address_space.md R207). -/
theorem aligned_in_page {w : Width} {va : Word} (d : Domain) (h : aligned w va = true) :
    (translate d va).toNat % Config.pageSize + w.bytes ≤ Config.pageSize := by
  have hva : va.toNat % w.bytes = 0 := by simpa [aligned] using h
  have hmask : ∀ m : Nat, (va.toNat &&& 0x1FFFFFFF) % 4096 = va.toNat % 4096 := by
    intro _
    have e : (0x1FFFFFFF : Nat) = 2 ^ 29 - 1 := by norm_num
    rw [e, Nat.and_two_pow_sub_one_eq_mod]
    omega
  have hpage : (translate d va).toNat % 4096 = va.toNat % 4096 := by
    cases d
    · simp only [translate]
      split
      · rfl
      · rw [physMask, BitVec.toNat_and]
        exact hmask 0
    · simp only [translate]
      rw [physMask, BitVec.toNat_and]
      exact hmask 0
  rw [Config.pageSize, hpage]
  cases w <;> simp only [Width.bytes] at hva ⊢ <;> omega

/-- An aligned fast-path access of a good state lies inside its store. -/
theorem lookup_fast_inside {s : State} {d : Domain} (h : (s.space d).Good) {w : Width} {va : Word}
    (ha : aligned w va = true) {dir : Dir} {st : Store} {off : Nat} {perm : Perm}
    (hl : lookup d dir va s = .fast st off perm) : off + w.bytes ≤ Config.storeSize st := by
  unfold lookup at hl
  dsimp only at hl
  split at hl
  · rename_i e he
    cases hl
    have h1 := pageEntry_inside h (pageOf_mod _) he
    have h2 := aligned_in_page d ha
    omega
  · split at hl <;> cases hl

/-- A write keeps the invariant. -/
theorem memWrite_inv {s : State} (hi : Inv s) (d : Domain) (w : Width) (va : Word) (v : BitVec 64) :
    Inv (memWrite d w va v s).state := by
  unfold memWrite
  split
  · rename_i ha
    split
    · rename_i st off hl
      have hin := lookup_fast_inside (hi.space_good d) ha hl
      have hst := State.storeLE_good s st off w.bytes v.toNat hi.stores_good hin
      have hwf := storeLE_writeFrame s st off w.bytes v.toNat
      simp only [Reply.state_done]
      refine ⟨fun d => by rw [hwf.keeps.space]; exact hi.space_good d, hst, fun c => ?_, ?_, fun side k hk => ?_⟩
      · rw [State.storeLE_eq]
        exact hi.base_masked c
      · rw [State.storeLE_eq]
        exact hi.no_seventh_flag
      · rw [hwf.fifo]
        exact hi.fifo_fits side k (hwf.keeps.params ▸ hk)
    · exact emit_inv hi _
    · exact handlerWrite_inv hi d _ w _ v
    · exact emit_inv hi _
  · exact hi

end Sys2Proof.Machine
end

