-- ==== Sys2Proof/Laws/Engine.lean ====
section
/-! SUPPORT. What the DMA engine can do (42_dma_transfer.md): end of transfer, the steps, and the loop of `Run`. -/

namespace Sys2Proof.Machine

/-! ### Clearing and setting single bits -/

/-- Clearing the enable bit clears it and leaves the others (42_dma_transfer.md R330). -/
theorem clearEn_getLsbD (v : Word) (i : Nat) :
    (v &&& ~~~chcrEnMask).getLsbD i = (v.getLsbD i && decide (i ≠ 24)) := by
  have h : chcrEnMask = BitVec.twoPow 32 24 := by decide
  rw [BitVec.getLsbD_and, BitVec.getLsbD_not, h, BitVec.getLsbD_twoPow]
  by_cases hi : i < 32
  · by_cases he : i = 24
    · subst he
      simp
    · simp [hi, he, Ne.symm he]
  · simp [BitVec.getLsbD_of_ge v i (by omega)]

/-- Setting a flag sets it and leaves the others. -/
theorem Latch.setFlag_getLsbD (l : Latch) (n i : Nat) (hn : n < 7) :
    (l.setFlag n).flags.getLsbD i = (l.flags.getLsbD i || decide (i = n)) := by
  simp only [Latch.setFlag, BitVec.getLsbD_or, BitVec.getLsbD_twoPow]
  congr 1
  by_cases h : n = i
  · subst h
    simp [hn]
  · have h' : ¬ i = n := fun e => h e.symm
    simp [h, h']

@[simp] theorem Latch.setFlag_low (l : Latch) (n : Nat) : (l.setFlag n).low = l.low := rfl

theorem idxOf_lt (c : Fin 13) : idxOf c < 7 := by
  unfold idxOf
  have := c.isLt
  split <;> omega

/-- A channel of the second half has an index below 6 (41_dma_registers.md R270). -/
theorem idxOf_lt_six {c : Fin 13} (h : halfOf c = .h1) : idxOf c < 6 := by
  unfold halfOf at h
  unfold idxOf
  have := c.isLt
  split at h
  · cases h
  · split <;> omega

/-! ### End of transfer -/

theorem emitAll_keeps (s : State) (es : List Event) : Keeps s (s.emitAll es) := ⟨rfl, rfl, rfl, rfl, rfl, es, rfl⟩

theorem setChan_keeps (s : State) (c : Fin 13) (v : Channel) : Keeps s (s.setChan c v) :=
  ⟨rfl, rfl, rfl, rfl, rfl, [], by simp⟩

theorem setLatch_keeps (s : State) (h : Half) (l : Latch) : Keeps s (s.setLatch h l) :=
  ⟨by simp, by simp, by simp, by simp, by simp, [], by simp⟩

theorem endTransfer_keeps (c : Fin 13) (s : State) : Keeps s (endTransfer c s) :=
  ((setChan_keeps s c _).trans (setLatch_keeps _ _ _)).trans (emitAll_keeps _ _)

theorem emitAll_inv {s : State} (hi : Inv s) (es : List Event) : Inv (s.emitAll es) :=
  hi.congr (fun d => by simp) rfl (fun _ => rfl) rfl rfl (fun side => by simp)

theorem endTransfer_inv {s : State} (hi : Inv s) (c : Fin 13) : Inv (endTransfer c s) := by
  refine emitAll_inv (setLatch_inv (setChan_inv hi c (s.chan c).ended (hi.base_masked c)) (halfOf c) _ fun h => ?_) _
  rw [Latch.setFlag_getLsbD _ _ _ (idxOf_lt c), State.setChan_latch, h, hi.no_seventh_flag]
  have := idxOf_lt_six h
  simp
  omega

/-! ### Steps keep -/

theorem setFifo_keeps (s : State) (side : FifoSide) (ws : List Word) : Keeps s (s.setFifo side ws) :=
  ⟨by simp, by simp, by simp, by simp, by simp, [], by simp⟩

theorem append_keeps (s : State) (side : FifoSide) (ws : List Word) : Keeps s (s.append side ws) :=
  ⟨by simp, by simp, by simp, by simp, by simp, [], by simp⟩

theorem memRead_keeps (d : Domain) (w : Width) (va : Word) (s : State) : Keeps s (memRead d w va s).state :=
  (memRead_readFrame d w va s).keeps

theorem streamStep_keeps (c : Fin 13) (s : State) : Keeps s (streamStep c s).state := by
  unfold streamStep
  dsimp only
  split
  · exact endTransfer_keeps c s
  · simp only [Reply.state_done]
    split
    · exact (setChan_keeps s c _).trans (endTransfer_keeps c _)
    · exact setChan_keeps s c _

theorem outTag_keeps (c : Fin 13) (s : State) : Keeps s (outTag c s).state := by
  unfold outTag
  split
  · refine Reply.andThen_keeps Keeps.trans (memRead_keeps ..) fun _ s => ?_
    refine Reply.andThen_keeps Keeps.trans (memRead_keeps ..) fun _ s => ?_
    refine Reply.andThen_keeps Keeps.trans (memRead_keeps ..) fun _ s => ?_
    refine Reply.andThen_keeps Keeps.trans (memRead_keeps ..) fun _ s => ?_
    exact (append_keeps s _ _).trans (setChan_keeps _ c _)
  · exact .refl s

theorem outData_keeps (c : Fin 13) (s : State) : Keeps s (outData c s).state := by
  unfold outData
  split
  · refine Reply.andThen_keeps Keeps.trans (memRead_keeps ..) fun _ s => ?_
    exact (append_keeps s _ _).trans (setChan_keeps _ c _)
  · exact .refl s

theorem outStep_keeps (c : Fin 13) (s : State) : Keeps s (outStep c s).state := by
  unfold outStep
  split
  · exact outData_keeps c s
  · split
    · exact endTransfer_keeps c s
    · exact outTag_keeps c s

theorem inTag_keeps (c : Fin 13) (s : State) : Keeps s (inTag c s).state := by
  unfold inTag
  split
  · exact (setFifo_keeps s _ _).trans (setChan_keeps _ c _)
  · exact .refl s

theorem inData_keeps (c : Fin 13) (s : State) : Keeps s (inData c s).state := by
  unfold inData
  split
  · exact .refl s
  · refine Reply.andThen_keeps Keeps.trans ?_ fun _ s => setChan_keeps s c _
    exact (setFifo_keeps s _ _).trans (memWrite_writeFrame ..).keeps

theorem inStep_keeps (c : Fin 13) (s : State) : Keeps s (inStep c s).state := by
  unfold inStep
  split
  · exact inData_keeps c s
  · split
    · exact endTransfer_keeps c s
    · exact inTag_keeps c s

theorem stepChannel_keeps (c : Fin 13) (s : State) : Keeps s (stepChannel c s).state := by
  unfold stepChannel
  split
  · exact streamStep_keeps c s
  · exact outStep_keeps c s
  · exact inStep_keeps c s
  · exact .refl s

/-- `Run` keeps both address spaces, the parameters, the port and the events already sent. -/
theorem runChannels_keeps (cs : List (Fin 13)) (s : State) : Keeps s (runChannels cs s).state := by
  induction cs generalizing s with
  | nil => exact .refl s
  | cons c cs ih =>
    unfold runChannels
    split
    · exact Reply.andThen_keeps Keeps.trans (stepChannel_keeps c s) fun _ => ih
    · exact ih s

/-! ### Steps return nothing -/

/-- Two states in which the same was returned. -/
def SameResult (s t : State) : Prop := t.result = s.result

theorem SameResult.trans {s t u : State} (h : SameResult s t) (k : SameResult t u) : SameResult s u := Eq.trans k h

theorem memRead_sameResult (d : Domain) (w : Width) (va : Word) (s : State) : SameResult s (memRead d w va s).state := by
  rw [(memRead_readFrame d w va s).eq]
  rfl

theorem endTransfer_sameResult (c : Fin 13) (s : State) : SameResult s (endTransfer c s) := by
  simp [SameResult, endTransfer]

theorem streamStep_sameResult (c : Fin 13) (s : State) : SameResult s (streamStep c s).state := by
  unfold streamStep
  dsimp only
  split
  · exact endTransfer_sameResult c s
  · simp only [Reply.state_done]
    split
    · exact endTransfer_sameResult c _
    · rfl

theorem outStep_sameResult (c : Fin 13) (s : State) : SameResult s (outStep c s).state := by
  unfold outStep outData outTag
  split
  · split
    · exact Reply.andThen_keeps SameResult.trans (memRead_sameResult ..) fun _ _ => rfl
    · rfl
  · split
    · exact endTransfer_sameResult c s
    · split
      · refine Reply.andThen_keeps SameResult.trans (memRead_sameResult ..) fun _ s => ?_
        refine Reply.andThen_keeps SameResult.trans (memRead_sameResult ..) fun _ s => ?_
        refine Reply.andThen_keeps SameResult.trans (memRead_sameResult ..) fun _ s => ?_
        exact Reply.andThen_keeps SameResult.trans (memRead_sameResult ..) fun _ _ => rfl
      · rfl

theorem inStep_sameResult (c : Fin 13) (s : State) : SameResult s (inStep c s).state := by
  unfold inStep inData inTag
  split
  · split
    · rfl
    · exact Reply.andThen_keeps SameResult.trans (memWrite_writeFrame ..).result fun _ _ => rfl
  · split
    · exact endTransfer_sameResult c s
    · split <;> rfl

/-- A step of `Run` returns nothing: only the command does. -/
theorem stepChannel_sameResult (c : Fin 13) (s : State) : SameResult s (stepChannel c s).state := by
  unfold stepChannel
  split
  · exact streamStep_sameResult c s
  · exact outStep_sameResult c s
  · exact inStep_sameResult c s
  · rfl

/-- The loop of `Run` returns nothing. -/
theorem runChannels_sameResult (cs : List (Fin 13)) (s : State) : SameResult s (runChannels cs s).state := by
  induction cs generalizing s with
  | nil => rfl
  | cons c cs ih =>
    unfold runChannels
    split
    · exact Reply.andThen_keeps SameResult.trans (stepChannel_sameResult c s) fun _ => ih
    · exact ih s

/-! ### Steps keep the invariant -/

theorem setFifo_inv {s : State} (hi : Inv s) (side : FifoSide) (ws : List Word)
    (h : ∀ k, s.params.fifoDepth = some k → ws.length ≤ k) : Inv (s.setFifo side ws) := by
  refine ⟨fun d => by simpa using hi.space_good d, fun st => by simpa using hi.stores_good st,
    fun c => by simpa using hi.base_masked c, by simpa using hi.no_seventh_flag, fun side' k hk => ?_⟩
  rw [State.setFifo_fifo]
  split
  · exact h k (by simpa using hk)
  · exact hi.fifo_fits side' k (by simpa using hk)

theorem append_inv {s : State} (hi : Inv s) (side : FifoSide) (ws : List Word)
    (h : s.hasRoom side ws.length = true) : Inv (s.append side ws) := by
  refine setFifo_inv hi side _ fun k hk => ?_
  simpa [State.hasRoom, hk] using h

theorem loadTag_base_lt (ch : Channel) (lo : Word) (count : BitVec 16) (tag : Word) :
    (ch.loadTag lo count tag).base.toNat < 2 ^ 24 := and_baseMask_lt lo

theorem advance_base_lt (ch : Channel) : ch.advance.base.toNat < 2 ^ 24 := and_baseMask_lt _

/-- A read leaves the FIFOs and the depth alone. -/
theorem ReadFrame.hasRoom {s t : State} (h : ReadFrame s t) (side : FifoSide) (n : Nat) :
    t.hasRoom side n = s.hasRoom side n := by
  rw [h.eq]
  cases side <;> rfl

theorem memRead_inv {s : State} (hi : Inv s) (d : Domain) (w : Width) (va : Word) :
    Inv (memRead d w va s).state := (memRead_readFrame d w va s).inv hi

/-- The states of a tag fetch: the invariant and the room that was tested. -/
theorem memRead_inv_room {s : State} {n : Nat} (h : Inv s ∧ s.hasRoom .side0 n = true) (d : Domain) (w : Width)
    (va : Word) : Inv (memRead d w va s).state ∧ (memRead d w va s).state.hasRoom .side0 n = true :=
  ⟨memRead_inv h.1 d w va, by rw [(memRead_readFrame d w va s).hasRoom]; exact h.2⟩

theorem streamStep_inv {s : State} (hi : Inv s) (c : Fin 13) : Inv (streamStep c s).state := by
  unfold streamStep
  dsimp only
  have h1 := setChan_inv hi c { s.chan c with count := (s.chan c).count - 1 } (hi.base_masked c)
  split
  · exact endTransfer_inv hi c
  · simp only [Reply.state_done]
    split
    · exact endTransfer_inv h1 c
    · exact h1

theorem outTag_inv {s : State} (hi : Inv s) (c : Fin 13) : Inv (outTag c s).state := by
  unfold outTag
  split
  · rename_i hroom
    let I : State → Prop := fun s => Inv s ∧ s.hasRoom .side0 2 = true
    let F : State → Prop := fun s => Inv s
    have weaken : ∀ {α : Type} {r : Reply α} {f : α → State → Reply Unit}, I r.state →
        (∀ v t, I t → F (f v t).state) → F (r.andThen f).state := by
      intro α r f h k
      cases r with
      | done v t => exact k v t h
      | raised c t => exact h.1
    refine weaken (memRead_inv_room ⟨hi, hroom⟩ ..) fun _ s hs => ?_
    refine weaken (memRead_inv_room hs ..) fun _ s hs => ?_
    refine weaken (memRead_inv_room hs ..) fun _ s hs => ?_
    refine weaken (memRead_inv_room hs ..) fun _ s hs => ?_
    exact setChan_inv (append_inv hs.1 .side0 [_, _] hs.2) c _ (loadTag_base_lt ..)
  · exact hi

theorem outData_inv {s : State} (hi : Inv s) (c : Fin 13) : Inv (outData c s).state := by
  unfold outData
  split
  · rename_i hroom
    have h := memRead_inv_room ⟨hi, hroom⟩ .S .w32 (s.chan c).base
    cases hr : memRead .S .w32 (s.chan c).base s with
    | done v t =>
      rw [hr] at h
      exact setChan_inv (append_inv h.1 .side0 [_] h.2) c _ (advance_base_lt _)
    | raised e t =>
      rw [hr] at h
      exact h.1
  · exact hi

theorem outStep_inv {s : State} (hi : Inv s) (c : Fin 13) : Inv (outStep c s).state := by
  unfold outStep
  split
  · exact outData_inv hi c
  · split
    · exact endTransfer_inv hi c
    · exact outTag_inv hi c

/-- Taking words from a FIFO keeps it within its depth. -/
theorem setFifo_shorter_inv {s : State} (hi : Inv s) (side : FifoSide) (ws : List Word)
    (h : ws.length ≤ (s.fifo side).length) : Inv (s.setFifo side ws) :=
  setFifo_inv hi side ws fun k hk => h.trans (hi.fifo_fits side k hk)

theorem inTag_inv {s : State} (hi : Inv s) (c : Fin 13) : Inv (inTag c s).state := by
  unfold inTag
  split
  · rename_i hf
    refine setChan_inv (setFifo_shorter_inv hi .side1 _ ?_) c _ (loadTag_base_lt ..)
    rw [hf]
    simp only [List.length_cons]
    omega
  · exact hi

theorem inData_inv {s : State} (hi : Inv s) (c : Fin 13) : Inv (inData c s).state := by
  unfold inData
  split
  · exact hi
  · rename_i hf
    refine Reply.andThen_inv (memWrite_inv (setFifo_shorter_inv hi .side1 _ (by rw [hf]; simp)) ..) fun _ s hs => ?_
    exact setChan_inv hs c _ (advance_base_lt _)

theorem inStep_inv {s : State} (hi : Inv s) (c : Fin 13) : Inv (inStep c s).state := by
  unfold inStep
  split
  · exact inData_inv hi c
  · split
    · exact endTransfer_inv hi c
    · exact inTag_inv hi c

theorem stepChannel_inv {s : State} (hi : Inv s) (c : Fin 13) : Inv (stepChannel c s).state := by
  unfold stepChannel
  split
  · exact streamStep_inv hi c
  · exact outStep_inv hi c
  · exact inStep_inv hi c
  · exact hi

/-- `Run` keeps the invariant. -/
theorem runChannels_inv (cs : List (Fin 13)) {s : State} (hi : Inv s) : Inv (runChannels cs s).state := by
  induction cs generalizing s with
  | nil => exact hi
  | cons c cs ih =>
    unfold runChannels
    split
    · exact Reply.andThen_inv (stepChannel_inv hi c) fun _ _ => ih
    · exact ih hi

/-! ### Which channels step -/

/-- With no eligible channel `Run` changes nothing (42_dma_transfer.md R300). -/
theorem runChannels_none (cs : List (Fin 13)) {s : State} (h : ∀ c ∈ cs, s.eligible c = false) :
    runChannels cs s = .done () s := by
  induction cs with
  | nil => rfl
  | cons c cs ih =>
    simp only [runChannels, h c List.mem_cons_self, Bool.false_eq_true, if_false]
    exact ih fun c' hc => h c' (List.mem_cons_of_mem _ hc)

/-- Channels before the first eligible one make no step. -/
theorem runChannels_skip (cs ds : List (Fin 13)) {s : State} (h : ∀ c ∈ cs, s.eligible c = false) :
    runChannels (cs ++ ds) s = runChannels ds s := by
  induction cs with
  | nil => rfl
  | cons c cs ih =>
    simp only [List.cons_append, runChannels, h c List.mem_cons_self, Bool.false_eq_true, if_false]
    exact ih fun c' hc => h c' (List.mem_cons_of_mem _ hc)

/-- The channel list around one channel. -/
theorem allChannels_split (c : Fin 13) :
    ∃ before after, allChannels = before ++ c :: after ∧ (∀ c' ∈ before, c' < c) ∧ ∀ c' ∈ after, c < c' := by
  refine ⟨allChannels.take c.val, allChannels.drop (c.val + 1), ?_, ?_, ?_⟩ <;> revert c <;> decide

/-- The lowest eligible channel steps first; the later ones follow unless it raises (42_dma_transfer.md R300). -/
theorem runChannels_lowest {c : Fin 13} {s : State} (h : LowestEligible c s) :
    ∃ after, (∀ c' ∈ after, c < c') ∧
      runChannels allChannels s = (stepChannel c s).andThen fun _ s => runChannels after s := by
  obtain ⟨before, after, hall, hb, ha⟩ := allChannels_split c
  refine ⟨after, ha, ?_⟩
  rw [hall, runChannels_skip before _ fun c' hc => h.2 c' (hb c' hc)]
  simp [runChannels, h.1]

/-- A raise of the lowest eligible channel ends the `Run`: no later channel steps. -/
theorem runChannels_raised {c : Fin 13} {s t : State} {e : Cause} (h : LowestEligible c s)
    (hstep : stepChannel c s = .raised e t) : runChannels allChannels s = .raised e t := by
  obtain ⟨after, -, heq⟩ := runChannels_lowest h
  rw [heq, hstep, Reply.andThen_raised]

/-- A channel that alone is eligible is the lowest one. -/
theorem OnlyEligible.lowest {c : Fin 13} {s : State} (h : OnlyEligible c s) : LowestEligible c s :=
  ⟨by simp [h c], fun c' hc => by rw [h c']; exact decide_eq_false hc.ne⟩

/-- With one eligible channel `Run` is that channel's step, if the step makes no later channel eligible. -/
theorem runChannels_only {c : Fin 13} {s : State} (h : OnlyEligible c s)
    (hstep : ∀ c', c < c' → (stepChannel c s).state.eligible c' = false) :
    runChannels allChannels s = stepChannel c s := by
  obtain ⟨after, ha, heq⟩ := runChannels_lowest h.lowest
  rw [heq]
  cases hr : stepChannel c s with
  | done v t =>
    rw [hr] at hstep
    rw [Reply.andThen_done]
    exact runChannels_none after fun c' hc => hstep c' (ha c' hc)
  | raised e t => rfl

end Sys2Proof.Machine
end

