-- ==== Sys2Proof/Laws/Registration.lean ====
section
/-! SUPPORT. The registrations (40_address_space.md R200, R201): the pages of a window, what a registration that is
accepted or refused does, and that an accepted one keeps an address space good. -/

namespace Sys2Proof.Machine

/-- The pages of a window are the page-aligned addresses inside it. -/
theorem mem_pagesOf {vstart vend p : Nat} (hs : vstart % Config.pageSize = 0) (he : vend % Config.pageSize = 0) :
    p ∈ pagesOf vstart vend ↔ p % Config.pageSize = 0 ∧ vstart ≤ p ∧ p < vend := by
  simp only [pagesOf, List.mem_map, List.mem_range'_1, Config.pageSize] at *
  constructor
  · rintro ⟨k, hk, rfl⟩
    omega
  · rintro ⟨hp, hlo, hhi⟩
    exact ⟨p / 4096, by omega, by omega⟩

/-- The pages of a window are listed in ascending order. -/
theorem pagesOf_sorted (vstart vend : Nat) : (pagesOf vstart vend).Pairwise (· < ·) := by
  have h : (List.range' (vstart / Config.pageSize) ((vend - vstart) / Config.pageSize)).Pairwise (· < ·) :=
    List.pairwise_lt_range'
  exact List.Pairwise.map _ (fun a b hab => Nat.mul_lt_mul_of_pos_right hab (by decide)) h

/-- The first element that a search of an ascending list finds is its least. -/
theorem find?_sorted {l : List Nat} (hl : l.Pairwise (· < ·)) {q : Nat → Bool} {p : Nat} (hp : p ∈ l) (hq : q p = true)
    (hfirst : ∀ p' ∈ l, p' < p → q p' = false) : l.find? q = some p := by
  induction l with
  | nil => cases hp
  | cons x l ih =>
    rw [List.pairwise_cons] at hl
    rcases List.mem_cons.1 hp with rfl | hp
    · simp [hq]
    · have hx := hfirst x List.mem_cons_self (hl.1 p hp)
      simp only [List.find?_cons, hx]
      exact ih hl.2 hp fun p' hp' => hfirst p' (List.mem_cons_of_mem _ hp')

/-- The page-table entry of a page after a region is added. -/
theorem pageEntry_addRegion (as : AddrSpace) (r : Region) (p : Nat) :
    (as.addRegion r).pageEntry p =
      if r.vstart ≤ p ∧ p < r.vend then some { store := r.store, off := p &&& r.mask.toNat, perm := storePerm r.store }
      else as.pageEntry p := by
  have h : r.covers p = decide (r.vstart ≤ p ∧ p < r.vend) := by simp [Region.covers]
  unfold AddrSpace.pageEntry AddrSpace.addRegion
  dsimp only
  rw [List.find?_cons, h]
  split <;> simp_all [Region.pageOff]

/-- A page with no entry is covered by no region. -/
theorem pageEntry_eq_none {as : AddrSpace} {p : Nat} :
    as.pageEntry p = none ↔ ∀ r ∈ as.regions, r.covers p = false := by
  simp [AddrSpace.pageEntry, List.find?_eq_none]

/-- A region whose pages were all free and inside their store keeps the address space good. -/
theorem addRegion_good {as : AddrSpace} (h : as.Good) {r : Region} (hs : r.vstart % Config.pageSize = 0)
    (he : r.vend % Config.pageSize = 0) (hlt : r.vstart < r.vend) (hend : r.vend ≤ 2 ^ 32)
    (hfree : ∀ p ∈ pagesOf r.vstart r.vend, badPage as r.mask r.store p = false) : (as.addRegion r).Good := by
  have hpage : ∀ p, p % Config.pageSize = 0 → r.covers p = true →
      as.pageEntry p = none ∧ r.pageOff p + Config.pageSize ≤ Config.storeSize r.store := by
    intro p hp hc
    have hc' : r.vstart ≤ p ∧ p < r.vend := by simpa [Region.covers] using hc
    have hb := hfree p ((mem_pagesOf hs he).2 ⟨hp, hc'⟩)
    simp only [badPage, Bool.or_eq_false_iff, Option.isSome_eq_false_iff, Option.isNone_iff_eq_none,
      decide_eq_false_iff_not, not_lt] at hb
    exact ⟨hb.1, hb.2⟩
  refine { h with regions_good := ?_, regions_apart := ?_ }
  · intro r' hr'
    rcases List.mem_cons.1 hr' with rfl | hr'
    · exact ⟨hs, he, hlt, hend, fun p hp hc => (hpage p hp hc).2⟩
    · exact h.regions_good r' hr'
  · refine List.pairwise_cons.2 ⟨fun r' hr' => ?_, h.regions_apart⟩
    obtain ⟨gs, ge, glt, -, -⟩ := h.regions_good r' hr'
    by_contra hov
    simp only [Region.Apart, not_or, not_le] at hov
    -- the higher of the two starts is a page of both windows
    have hp : max r.vstart r'.vstart % Config.pageSize = 0 := by
      rcases max_choice r.vstart r'.vstart with e | e <;> rw [e] <;> assumption
    have hc : r.covers (max r.vstart r'.vstart) = true := by
      simp only [Region.covers, Bool.and_eq_true, decide_eq_true_eq]
      omega
    have hnone := pageEntry_eq_none.1 (hpage _ hp hc).1 r' hr'
    simp only [Region.covers, Bool.and_eq_false_iff, decide_eq_false_iff_not] at hnone
    omega

/-- A handler window that is not empty and overlaps no other keeps the address space good. -/
theorem addHandler_good {as : AddrSpace} (h : as.Good) (dir : Dir) {w : Window} (hw : w.lo < w.hi)
    (hfree : (as.handlers dir).any (fun v => v.overlaps w.lo w.hi) = false) : (as.addHandler dir w).Good := by
  have apart : ∀ l : List Window, l.any (fun v => v.overlaps w.lo w.hi) = false → l.Pairwise Window.Apart →
      (l ++ [w]).Pairwise Window.Apart := by
    intro l hl hp
    refine List.pairwise_append.2 ⟨hp, List.pairwise_singleton _ _, fun v hv v' hv' => ?_⟩
    rw [List.mem_singleton.1 hv']
    have hov := List.any_eq_false.1 hl v hv
    simp only [Window.overlaps, Bool.and_eq_true, decide_eq_true_eq, not_and, not_lt] at hov
    simp only [Window.Apart]
    by_cases hc : w.lo < v.hi
    · exact .inr (hov hc)
    · exact .inl (not_lt.1 hc)
  have good : ∀ l : List Window, (∀ v ∈ l, v.Good) → ∀ v ∈ l ++ [w], v.Good := by
    intro l hl v hv
    rcases List.mem_append.1 hv with hv | hv
    · exact hl v hv
    · rw [List.mem_singleton.1 hv]
      exact hw
  cases dir
  · exact { h with read_good := good _ h.read_good, read_apart := apart _ hfree h.read_apart }
  · exact { h with write_good := good _ h.write_good, write_apart := apart _ hfree h.write_apart }

/-- Putting a good address space in place of another keeps the invariant. -/
theorem setSpace_inv {s : State} (hi : Inv s) (d : Domain) {as : AddrSpace} (h : as.Good) : Inv (s.setSpace d as) := by
  refine ⟨fun d' => ?_, fun st => by cases d <;> exact hi.stores_good st, fun c => by cases d <;> exact hi.base_masked c,
    by cases d <;> exact hi.no_seventh_flag,
    fun side k hk => by simpa using hi.fifo_fits side k (by simpa using hk)⟩
  rw [State.setSpace_space]
  split
  · exact h
  · exact hi.space_good d'

theorem registerRegion_inv {s : State} (hi : Inv s) (d : Domain) (vstart vend : Nat) (mask : Word) (st : Store)
    (hend : vend ≤ 2 ^ 32) : Inv (registerRegion d vstart vend mask st s).state := by
  unfold registerRegion
  split
  · exact hi
  · rename_i hb
    simp only [not_or, not_not, not_le] at hb
    split
    · exact hi
    · rename_i hf
      refine setSpace_inv hi d (addRegion_good (hi.space_good d) (r := ⟨vstart, vend, mask, st⟩) hb.1 hb.2.1 hb.2.2 hend ?_)
      intro p hp
      simpa using List.find?_eq_none.1 hf p hp

theorem registerHandler_inv {s : State} (hi : Inv s) (d : Domain) (dir : Dir) (lo hi' : Nat) (h : Handler) :
    Inv (registerHandler d dir lo hi' h s).state := by
  unfold registerHandler
  split
  · exact hi
  · split
    · exact hi
    · rename_i hlt hfree
      exact setSpace_inv hi d (addHandler_good (hi.space_good d) dir (w := ⟨lo, hi', h⟩) (not_le.1 hlt) (by simpa using hfree))

end Sys2Proof.Machine
end

