-- ==== Sys2Proof/Laws/Commands.lean ====
section
/-! SUPPORT. Every instruction is one command (`runCommand`) with a body: what holds of all commands is proved once of
`runCommand`, and what holds of a body is proved of `bodyOf`. -/

namespace Sys2Proof.Machine

/-- The body of an instruction's command. -/
def bodyOf : Instr → State → Reply Result
  | .registerRegion d vstart vend mask st => registerRegion d vstart.toNat vend mask st
  | .registerReadHandler d lo hi h => registerHandler d .read lo.toNat hi h
  | .registerWriteHandler d lo hi h => registerHandler d .write lo.toNat hi h
  | .readByte d va => readCommand d .w8 va
  | .readHalf d va => readCommand d .w16 va
  | .readWord d va => readCommand d .w32 va
  | .readDouble d va => readCommand d .w64 va
  | .readQuad d va => readQuad d va
  | .writeByte d va v => writeCommand d .w8 va (v.setWidth 64)
  | .writeHalf d va v => writeCommand d .w16 va (v.setWidth 64)
  | .writeWord d va v => writeCommand d .w32 va (v.setWidth 64)
  | .writeDouble d va v => writeCommand d .w64 va v
  | .writeQuad d va v => writeQuad d va v
  | .translateVirtualAddress d va => fun s => .done (.word (translate d va)) s
  | .validCodeRegion d va => fun s => .done (.bool (validCode d va s)) s
  | .dmaReset => fun s => .done .none (resetDma s)
  | .dmaRun _ => fun s => (runChannels allChannels s).noResult
  | .dmaReadRegister w a => fun s => (dmaRead w a s).andThen fun v s => .done (resultOf w v) s
  | .dmaWriteRegister w a data => fun s => (dmaWrite w a data s).noResult
  | .writeSide0Fifo w => fun s => (pushSide0 w s).noResult
  | .writeSide1FifoWord w => fun s => (pushSide1 [w] s).noResult
  | .writeSide1FifoWide v => fun s => (pushSide1 (wideWords v) s).noResult
  | .readSide0Fifo => fun s => (popSide .side0 s).andThen fun w s => .done (.word w) s
  | .readSide1Fifo => fun s => (popSide .side1 s).andThen fun w s => .done (.word w) s
  | .getSide0FifoSize => fun s => .done (.size (s.fifo .side0).length) s
  | .getSide1FifoSize => fun s => .done (.size (s.fifo .side1).length) s
  | .sifReadRegister _ reg => fun s => .done (.word (s.sif.reg reg)) s
  | .sifWriteMscom side v => sifWriteCommand side .mscom v
  | .sifWriteSmcom side v => sifWriteCommand side .smcom v
  | .sifWriteMsflag side v => sifWriteCommand side .msflag v
  | .sifWriteSmflag side v => sifWriteCommand side .smflag v
  | .sifWriteCtrl side v => sifWriteCommand side .ctrl v
  | .sifWriteBd6 side v => sifWriteCommand side .bd6 v
  | .ldDpcr => readCommand .S .w32 (CtrlReg.addr .dpcr)
  | .stDpcr v => writeCommand .S .w32 (CtrlReg.addr .dpcr) (v.setWidth 64)
  | .ldDicr => readCommand .S .w32 (CtrlReg.addr .dicr)
  | .stDicr v => writeCommand .S .w32 (CtrlReg.addr .dicr) (v.setWidth 64)
  | .ldDpcr2 => readCommand .S .w32 (CtrlReg.addr .dpcr2)
  | .stDpcr2 v => writeCommand .S .w32 (CtrlReg.addr .dpcr2) (v.setWidth 64)
  | .ldDicr2 => readCommand .S .w32 (CtrlReg.addr .dicr2)
  | .stDicr2 v => writeCommand .S .w32 (CtrlReg.addr .dicr2) (v.setWidth 64)
  | .ldDmacen => readCommand .S .w32 (CtrlReg.addr .dmacen)
  | .stDmacen v => writeCommand .S .w32 (CtrlReg.addr .dmacen) (v.setWidth 64)
  | .ldDmacinten => readCommand .S .w32 (CtrlReg.addr .dmacinten)
  | .stDmacinten v => writeCommand .S .w32 (CtrlReg.addr .dmacinten) (v.setWidth 64)
  | .ldMadr slot => readCommand .S (ChanReg.width .madr) (channelAddr slot (ChanReg.off .madr))
  | .stMadr slot v => writeCommand .S (ChanReg.width .madr) (channelAddr slot (ChanReg.off .madr)) (v.setWidth 64)
  | .ldBcr slot => readCommand .S (ChanReg.width .bcr) (channelAddr slot (ChanReg.off .bcr))
  | .stBcr slot v => writeCommand .S (ChanReg.width .bcr) (channelAddr slot (ChanReg.off .bcr)) (v.setWidth 64)
  | .ldBcrCount slot => readCommand .S (ChanReg.width .bcrCount) (channelAddr slot (ChanReg.off .bcrCount))
  | .stBcrCount slot v => writeCommand .S (ChanReg.width .bcrCount) (channelAddr slot (ChanReg.off .bcrCount)) (v.setWidth 64)
  | .ldChcr slot => readCommand .S (ChanReg.width .chcr) (channelAddr slot (ChanReg.off .chcr))
  | .stChcr slot v => writeCommand .S (ChanReg.width .chcr) (channelAddr slot (ChanReg.off .chcr)) (v.setWidth 64)
  | .ldTadr slot => readCommand .S (ChanReg.width .tadr) (channelAddr slot (ChanReg.off .tadr))
  | .stTadr slot v => writeCommand .S (ChanReg.width .tadr) (channelAddr slot (ChanReg.off .tadr)) (v.setWidth 64)
  | .ldMscomP => readCommand .P .w32 (SifReg.addr .P .mscom)
  | .stMscomP v => writeCommand .P .w32 (SifReg.addr .P .mscom) (v.setWidth 64)
  | .ldSmcomP => readCommand .P .w32 (SifReg.addr .P .smcom)
  | .stSmcomP v => writeCommand .P .w32 (SifReg.addr .P .smcom) (v.setWidth 64)
  | .ldMsflagP => readCommand .P .w32 (SifReg.addr .P .msflag)
  | .stMsflagP v => writeCommand .P .w32 (SifReg.addr .P .msflag) (v.setWidth 64)
  | .ldSmflagP => readCommand .P .w32 (SifReg.addr .P .smflag)
  | .stSmflagP v => writeCommand .P .w32 (SifReg.addr .P .smflag) (v.setWidth 64)
  | .ldCtrlP => readCommand .P .w32 (SifReg.addr .P .ctrl)
  | .stCtrlP v => writeCommand .P .w32 (SifReg.addr .P .ctrl) (v.setWidth 64)
  | .ldBd6P => readCommand .P .w32 (SifReg.addr .P .bd6)
  | .stBd6P v => writeCommand .P .w32 (SifReg.addr .P .bd6) (v.setWidth 64)
  | .ldMscomS => readCommand .S .w32 (SifReg.addr .S .mscom)
  | .stMscomS v => writeCommand .S .w32 (SifReg.addr .S .mscom) (v.setWidth 64)
  | .ldSmcomS => readCommand .S .w32 (SifReg.addr .S .smcom)
  | .stSmcomS v => writeCommand .S .w32 (SifReg.addr .S .smcom) (v.setWidth 64)
  | .ldMsflagS => readCommand .S .w32 (SifReg.addr .S .msflag)
  | .stMsflagS v => writeCommand .S .w32 (SifReg.addr .S .msflag) (v.setWidth 64)
  | .ldSmflagS => readCommand .S .w32 (SifReg.addr .S .smflag)
  | .stSmflagS v => writeCommand .S .w32 (SifReg.addr .S .smflag) (v.setWidth 64)
  | .ldCtrlS => readCommand .S .w32 (SifReg.addr .S .ctrl)
  | .stCtrlS v => writeCommand .S .w32 (SifReg.addr .S .ctrl) (v.setWidth 64)
  | .ldBd6S => readCommand .S .w32 (SifReg.addr .S .bd6)
  | .stBd6S v => writeCommand .S .w32 (SifReg.addr .S .bd6) (v.setWidth 64)

/-- Every instruction is the command of its body, under its own name. -/
theorem exec_eq (i : Instr) (s : State) : exec i s = runCommand (.command i) (bodyOf i) s := by
  cases i <;> rfl

/-- Parts that do not touch FAULT make a sequence that does not. -/
theorem Reply.andThen_fault {α β : Type} {s : State} {r : Reply α} {f : α → State → Reply β}
    (h : r.state.fault = s.fault) (k : ∀ v t, (f v t).state.fault = t.fault) : (r.andThen f).state.fault = s.fault := by
  cases r with
  | done v t => exact (k v t).trans h
  | raised c t => exact h

theorem memRead_fault (d : Domain) (w : Width) (va : Word) (s : State) : (memRead d w va s).state.fault = s.fault :=
  (memRead_readFrame d w va s).keeps.fault

theorem memWrite_fault (d : Domain) (w : Width) (va : Word) (v : BitVec 64) (s : State) :
    (memWrite d w va v s).state.fault = s.fault := (memWrite_writeFrame d w va v s).keeps.fault

theorem readCommand_fault (d : Domain) (w : Width) (va : Word) (s : State) :
    (readCommand d w va s).state.fault = s.fault := (readCommand_readFrame d w va s).keeps.fault

theorem writeCommand_fault (d : Domain) (w : Width) (va : Word) (v : BitVec 64) (s : State) :
    (writeCommand d w va v s).state.fault = s.fault := by
  rw [writeCommand, Reply.noResult_state, memWrite_fault]

theorem quadCheck_fault (d : Domain) (va : Word) (s : State) : (quadCheck d va s).state.fault = s.fault := by
  cases d
  · simp only [quadCheck]
    split <;> rfl
  · rfl

theorem readQuad_fault (d : Domain) (va : Word) (s : State) : (readQuad d va s).state.fault = s.fault :=
  Reply.andThen_fault (quadCheck_fault d va s) fun _ _ => Reply.andThen_fault (memRead_fault ..) fun _ _ =>
    Reply.andThen_fault (memRead_fault ..) fun _ _ => Reply.andThen_fault (memRead_fault ..) fun _ _ =>
      Reply.andThen_fault (memRead_fault ..) fun _ _ => rfl

theorem writeQuad_fault (d : Domain) (va : Word) (v : BitVec 128) (s : State) :
    (writeQuad d va v s).state.fault = s.fault :=
  Reply.andThen_fault (quadCheck_fault d va s) fun _ _ => Reply.andThen_fault (memWrite_fault ..) fun _ _ =>
    Reply.andThen_fault (memWrite_fault ..) fun _ _ => Reply.andThen_fault (memWrite_fault ..) fun _ _ => by
      rw [Reply.noResult_state, memWrite_fault]

theorem registerRegion_fault (d : Domain) (vstart vend : Nat) (mask : Word) (st : Store) (s : State) :
    (registerRegion d vstart vend mask st s).state.fault = s.fault := by
  unfold registerRegion
  split
  · rfl
  · split
    · rfl
    · cases d <;> rfl

theorem registerHandler_fault (d : Domain) (dir : Dir) (lo hi : Nat) (h : Handler) (s : State) :
    (registerHandler d dir lo hi h s).state.fault = s.fault := by
  unfold registerHandler
  split
  · rfl
  · split
    · rfl
    · cases d <;> rfl

theorem pushSide0_fault (w : Word) (s : State) : (pushSide0 w s).state.fault = s.fault := by
  unfold pushSide0
  split <;> rfl

theorem pushSide1_fault (ws : List Word) (s : State) : (pushSide1 ws s).state.fault = s.fault := by
  unfold pushSide1
  split <;> rfl

theorem popSide_fault (side : FifoSide) (s : State) : (popSide side s).state.fault = s.fault := by
  unfold popSide
  split
  · rfl
  · simp

/-- No body touches FAULT: only `runCommand` does. -/
theorem bodyOf_fault (i : Instr) (s : State) : (bodyOf i s).state.fault = s.fault := by
  cases i <;> simp only [bodyOf]
  case registerRegion => exact registerRegion_fault ..
  case registerReadHandler => exact registerHandler_fault ..
  case registerWriteHandler => exact registerHandler_fault ..
  case readQuad => exact readQuad_fault ..
  case writeQuad => exact writeQuad_fault ..
  case dmaRun => rw [Reply.noResult_state, (runChannels_keeps _ s).fault]
  case dmaReadRegister => exact Reply.andThen_fault (dmaRead_readFrame ..).keeps.fault fun _ _ => rfl
  case dmaWriteRegister => rw [Reply.noResult_state, (dmaWrite_writeFrame ..).keeps.fault]
  case writeSide0Fifo => rw [Reply.noResult_state, pushSide0_fault]
  case writeSide1FifoWord => rw [Reply.noResult_state, pushSide1_fault]
  case writeSide1FifoWide => rw [Reply.noResult_state, pushSide1_fault]
  case readSide0Fifo => exact Reply.andThen_fault (popSide_fault ..) fun _ _ => rfl
  case readSide1Fifo => exact Reply.andThen_fault (popSide_fault ..) fun _ _ => rfl
  all_goals first
    | exact readCommand_fault ..
    | exact writeCommand_fault ..
    | rfl

/-- A live block runs the body, with nothing returned yet. -/
theorem exec_done {i : Instr} {s t : State} {v : Result} (h : s.Live)
    (hf : bodyOf i (s.setResult .none) = .done v t) : exec i s = .next (t.setResult v) := by
  rw [exec_eq]
  exact runCommand_done h hf

/-- A body that raises leaves its effects, with its cause and its instruction recorded. -/
theorem exec_raised {i : Instr} {s t : State} {c : Cause} (h : s.Live)
    (hf : bodyOf i (s.setResult .none) = .raised c t) : exec i s = .next { t with fault := raisedBy i c } := by
  have ht : t.Live := by
    have hb := bodyOf_fault i (s.setResult .none)
    rw [hf] at hb
    exact hb.trans h
  rw [exec_eq, runCommand_raised h hf, raise_live ht]
  rfl

/-- What every body keeps holds after every instruction, if returning a value and recording a fault keep it. -/
theorem exec_related {R : State → State → Prop} {i : Instr} {s t : State} (h : exec i s = .next t)
    (hrefl : ∀ u, R u u) (hresult : ∀ u r, R u (u.setResult r)) (hraise : ∀ u c who, R u (raise c who u))
    (htrans : ∀ {u v w}, R u v → R v w → R u w) (hbody : ∀ u, R u (bodyOf i u).state) : R s t := by
  rw [exec_eq] at h
  rcases runCommand_cases h with ⟨-, rfl⟩ | ⟨-, v, u, hf, rfl⟩ | ⟨-, c, u, hf, rfl⟩
  · exact hrefl _
  · exact htrans (htrans (hresult s .none) (by simpa [hf] using hbody (s.setResult .none))) (hresult u v)
  · exact htrans (htrans (hresult s .none) (by simpa [hf] using hbody (s.setResult .none))) (hraise u c _)

end Sys2Proof.Machine
end

