-- ==== Sys2Proof/Laws/Decode.lean ====
section
/-! SUPPORT. Bytes, bit fields and operand codes: each writer undone by its reader (30_encoding.md R140, log 2). -/

namespace Sys2Proof

/-! ### Bytes -/

@[simp] theorem natToBytes_length (k w : Nat) : (natToBytes k w).length = k := by
  induction k generalizing w with
  | zero => rfl
  | succ k ih => simp [natToBytes, ih]

theorem bytesToNat_natToBytes (k w : Nat) : bytesToNat (natToBytes k w) = w % 256 ^ k := by
  induction k generalizing w with
  | zero => simp [natToBytes, bytesToNat, Nat.mod_one]
  | succ k ih =>
    rw [natToBytes, bytesToNat, ih, BitVec.toNat_ofNat]
    have e := (Nat.mod_mul (x := w) (a := 256) (b := 256 ^ k)).symm
    rw [← Nat.pow_succ'] at e
    exact e

theorem bytesToNat_lt (bs : List Byte) : bytesToNat bs < 256 ^ bs.length := by
  induction bs with
  | nil => simp [bytesToNat]
  | cons b bs ih =>
    have := b.isLt
    rw [bytesToNat, List.length_cons, Nat.pow_succ]
    omega

theorem natToBytes_bytesToNat (bs : List Byte) : natToBytes bs.length (bytesToNat bs) = bs := by
  induction bs with
  | nil => rfl
  | cons b bs ih =>
    have hb := b.isLt
    rw [bytesToNat, List.length_cons, natToBytes]
    congr 1
    · apply BitVec.eq_of_toNat_eq
      rw [BitVec.toNat_ofNat]
      omega
    · rw [show (b.toNat + 256 * bytesToNat bs) / 256 = bytesToNat bs by omega, ih]

/-! ### Fields -/

/-- The total width of fields. -/
def fieldsWidth (fs : List (Nat × Nat)) : Nat := (fs.map Prod.fst).sum

/-- Every value fits its field. -/
def FieldsFit (fs : List (Nat × Nat)) : Prop := ∀ f ∈ fs, f.2 < 2 ^ f.1

theorem joinFields_lt {fs : List (Nat × Nat)} (h : FieldsFit fs) : joinFields fs < 2 ^ fieldsWidth fs := by
  induction fs with
  | nil => simp [joinFields, fieldsWidth]
  | cons f fs ih =>
    obtain ⟨k, v⟩ := f
    have hv : v < 2 ^ k := h (k, v) List.mem_cons_self
    have ht := ih fun f hf => h f (List.mem_cons_of_mem _ hf)
    simp only [joinFields, fieldsWidth, List.map_cons, List.sum_cons, Nat.pow_add] at ht ⊢
    calc v + 2 ^ k * joinFields fs < 2 ^ k + 2 ^ k * joinFields fs := by omega
      _ = 2 ^ k * (joinFields fs + 1) := by ring
      _ ≤ 2 ^ k * 2 ^ (fs.map Prod.fst).sum := Nat.mul_le_mul_left _ ht

theorem splitFields_joinFields {fs : List (Nat × Nat)} (h : FieldsFit fs) :
    splitFields (fs.map Prod.fst) (joinFields fs) = fs.map Prod.snd := by
  induction fs with
  | nil => rfl
  | cons f fs ih =>
    obtain ⟨k, v⟩ := f
    have hv : v < 2 ^ k := h (k, v) List.mem_cons_self
    have hmod : (v + 2 ^ k * joinFields fs) % 2 ^ k = v := by
      rw [Nat.add_mul_mod_self_left, Nat.mod_eq_of_lt hv]
    have hdiv : (v + 2 ^ k * joinFields fs) / 2 ^ k = joinFields fs := by
      rw [Nat.add_mul_div_left _ _ (Nat.two_pow_pos k), Nat.div_eq_of_lt hv, Nat.zero_add]
    simp only [List.map_cons, splitFields, joinFields, hmod, hdiv,
      ih fun f hf => h f (List.mem_cons_of_mem _ hf)]

theorem aboveFields_joinFields {fs : List (Nat × Nat)} (h : FieldsFit fs) :
    aboveFields (fs.map Prod.fst) (joinFields fs) = 0 := by
  induction fs with
  | nil => rfl
  | cons f fs ih =>
    obtain ⟨k, v⟩ := f
    have hv : v < 2 ^ k := h (k, v) List.mem_cons_self
    have hdiv : (v + 2 ^ k * joinFields fs) / 2 ^ k = joinFields fs := by
      rw [Nat.add_mul_div_left _ _ (Nat.two_pow_pos k), Nat.div_eq_of_lt hv, Nat.zero_add]
    simp only [List.map_cons, aboveFields, joinFields, hdiv, ih fun f hf => h f (List.mem_cons_of_mem _ hf)]

theorem splitFields_length (ks : List Nat) (w : Nat) : (splitFields ks w).length = ks.length := by
  induction ks generalizing w with
  | nil => rfl
  | cons k ks ih => simp [splitFields, ih]

theorem joinFields_splitFields {ks : List Nat} {w : Nat} (h : aboveFields ks w = 0) :
    joinFields (ks.zip (splitFields ks w)) = w := by
  induction ks generalizing w with
  | nil => simpa [joinFields, aboveFields] using h.symm
  | cons k ks ih =>
    simp only [splitFields, List.zip_cons_cons, joinFields, ih (by simpa [aboveFields] using h)]
    exact Nat.mod_add_div w (2 ^ k)

/-- The value of a frame whose fields fit it. -/
theorem bytesToNat_frame {fs : List (Nat × Nat)} (h : FieldsFit fs) (hw : fieldsWidth fs ≤ 8 * frameBytes) :
    bytesToNat (natToBytes frameBytes (joinFields fs)) = joinFields fs := by
  rw [bytesToNat_natToBytes]
  apply Nat.mod_eq_of_lt
  have e : (256 : Nat) ^ frameBytes = 2 ^ (8 * frameBytes) := by norm_num [frameBytes]
  rw [e]
  exact lt_of_lt_of_le (joinFields_lt h) (Nat.pow_le_pow_right (by norm_num) hw)

/-! ### Codes -/

@[simp] theorem Domain.ofCode_code (d : Domain) : Domain.ofCode d.code = some d := by cases d <;> rfl

@[simp] theorem Store.ofCode_code (st : Store) : Store.ofCode st.code = some st := by cases st <;> rfl

@[simp] theorem Width.ofCode_code (w : Width) : Width.ofCode w.code = some w := by cases w <;> rfl

@[simp] theorem SifReg.ofCode_code (r : SifReg) : SifReg.ofCode r.code = some r := by cases r <;> rfl

@[simp] theorem Handler.ofCode_code (h : Handler) : Handler.ofCode h.code = h := by cases h <;> rfl

@[simp] theorem Selector.ofCode_code (sel : Selector) : Selector.ofCode sel.code = some sel := by
  cases sel <;> decide

@[simp] theorem CtrlReg.ofAddr_addr (r : CtrlReg) : CtrlReg.ofAddr r.addr = some r := by cases r <;> decide

@[simp] theorem SifReg.ofAddr_addr (d : Domain) (r : SifReg) : SifReg.ofAddr d (SifReg.addr d r) = some r := by
  cases d <;> cases r <;> decide

@[simp] theorem BusReg.ofAddr_addr (r : BusReg) : BusReg.ofAddr r.addr = some r := by
  cases r with
  | ctrl r => cases r <;> decide
  | sif d r => cases d <;> cases r <;> decide

@[simp] theorem ChanReg.ofOff_off (r : ChanReg) : ChanReg.ofOff r.off = some r := by cases r <;> decide

theorem Selector.code_lt (sel : Selector) : sel.code < 256 := by cases sel <;> decide

theorem Domain.code_lt (d : Domain) : d.code < 2 ^ 8 := by cases d <;> decide

theorem Store.code_lt (st : Store) : st.code < 2 ^ 8 := by cases st <;> decide

theorem Width.code_lt (w : Width) : w.code < 2 ^ 8 := by cases w <;> decide

theorem SifReg.code_lt (r : SifReg) : r.code < 2 ^ 8 := by cases r <;> decide

theorem Handler.code_lt {h : Handler} (he : h.encodable = true) : h.code < 2 ^ 32 := by
  cases h with
  | dma => decide
  | sif => decide
  | device n => simpa [Handler.encodable, Handler.code] using he

end Sys2Proof
end

