-- ==== Sys2Proof/Laws/PerInstr.lean ====
section
/-! SUPPORT. Per-instruction facts about the encoding: every operand of a well-formed instruction fits its field, and
the fields fit the frame (log 2). -/

namespace Sys2Proof.Laws

/-- The fields of a well-formed instruction hold its operands, and the frame holds the fields. -/
def EncodedFits.Statement (i : Instr) : Prop :=
  i.wellFormed = true → FieldsFit i.fields.2 ∧ fieldsWidth i.fields.2 ≤ 8 * frameBytes

/-- A command's fields fit when its operands do. -/
theorem EncodedFits.command (sel : Selector) (vals : List Nat) (h : FieldsFit (sel.layout.zip vals)) :
    FieldsFit (commandFields sel vals) ∧ fieldsWidth (commandFields sel vals) ≤ 8 * frameBytes := by
  refine ⟨fun f hf => ?_, ?_⟩
  · rcases List.mem_cons.1 hf with e | e
    · rw [e]
      exact sel.code_lt
    · exact h f e
  · have hz : ∀ (ks vs : List Nat), ((ks.zip vs).map Prod.fst).sum ≤ ks.sum := by
      intro ks
      induction ks with
      | nil => simp
      | cons k ks ih =>
        intro vs
        cases vs with
        | nil => simp
        | cons v vs => simpa using ih vs
    have hl := hz sel.layout vals
    have ht : 8 + sel.layout.sum ≤ 8 * frameBytes := by cases sel <;> decide
    simp only [fieldsWidth, commandFields, List.map_cons, List.sum_cons]
    omega

theorem EncodedFits.busLoad (a : Word) :
    FieldsFit (busLoadFields a) ∧ fieldsWidth (busLoadFields a) ≤ 8 * frameBytes :=
  ⟨by simp [FieldsFit, busLoadFields, a.isLt], by simp [fieldsWidth, busLoadFields, frameBytes]⟩

theorem EncodedFits.busStore (a v : Word) :
    FieldsFit (busStoreFields a v) ∧ fieldsWidth (busStoreFields a v) ≤ 8 * frameBytes :=
  ⟨by simp [FieldsFit, busStoreFields, a.isLt, v.isLt], by simp [fieldsWidth, busStoreFields, frameBytes]⟩

theorem EncodedFits.chanLoad (r : ChanReg) (slot : BitVec 4) :
    FieldsFit (chanLoadFields r slot) ∧ fieldsWidth (chanLoadFields r slot) ≤ 8 * frameBytes :=
  ⟨by simp [FieldsFit, chanLoadFields, r.off.isLt, slot.isLt], by simp [fieldsWidth, chanLoadFields, frameBytes]⟩

theorem EncodedFits.chanStore (r : ChanReg) (slot : BitVec 4) (v : Nat) (h : v < 2 ^ r.width.bits) :
    FieldsFit (chanStoreFields r slot v) ∧ fieldsWidth (chanStoreFields r slot v) ≤ 8 * frameBytes :=
  ⟨by simp [FieldsFit, chanStoreFields, r.off.isLt, slot.isLt, h], by
    cases r <;> simp [fieldsWidth, chanStoreFields, frameBytes, ChanReg.width, Width.bits]⟩

/-- Operand lists that fit, built one field at a time. -/
theorem EncodedFits.nil : FieldsFit [] := by simp [FieldsFit]

theorem EncodedFits.cons {k v : Nat} {fs : List (Nat × Nat)} (hv : v < 2 ^ k) (h : FieldsFit fs) :
    FieldsFit ((k, v) :: fs) := by
  intro f hf
  rcases List.mem_cons.1 hf with e | e
  · rw [e]
    exact hv
  · exact h f e

theorem EncodedFits.registerRegion (d : Domain) (vstart : Word) (vend : Nat) (mask : Word) (store : Store) : EncodedFits.Statement (.registerRegion d vstart vend mask store) := fun h =>
  EncodedFits.command .registerRegion _ (EncodedFits.cons d.code_lt (EncodedFits.cons vstart.isLt (EncodedFits.cons (by
    have hv : vend ≤ 2 ^ 32 := of_decide_eq_true h
    omega) (EncodedFits.cons mask.isLt (EncodedFits.cons store.code_lt EncodedFits.nil)))))

theorem EncodedFits.registerReadHandler (d : Domain) (lo : Word) (hi : Nat) (h : Handler) : EncodedFits.Statement (.registerReadHandler d lo hi h) := fun h' => by
  have hh : hi ≤ 2 ^ 32 ∧ h.encodable = true :=
    ⟨of_decide_eq_true (Bool.and_eq_true_iff.1 h').1, (Bool.and_eq_true_iff.1 h').2⟩
  exact EncodedFits.command .registerReadHandler _ (EncodedFits.cons d.code_lt (EncodedFits.cons lo.isLt (EncodedFits.cons (by omega)
    (EncodedFits.cons (Handler.code_lt hh.2) EncodedFits.nil))))

theorem EncodedFits.registerWriteHandler (d : Domain) (lo : Word) (hi : Nat) (h : Handler) : EncodedFits.Statement (.registerWriteHandler d lo hi h) := fun h' => by
  have hh : hi ≤ 2 ^ 32 ∧ h.encodable = true :=
    ⟨of_decide_eq_true (Bool.and_eq_true_iff.1 h').1, (Bool.and_eq_true_iff.1 h').2⟩
  exact EncodedFits.command .registerWriteHandler _ (EncodedFits.cons d.code_lt (EncodedFits.cons lo.isLt (EncodedFits.cons (by omega)
    (EncodedFits.cons (Handler.code_lt hh.2) EncodedFits.nil))))

theorem EncodedFits.readByte (d : Domain) (va : Word) : EncodedFits.Statement (.readByte d va) := fun _ =>
  EncodedFits.command .readByte _ (EncodedFits.cons d.code_lt (EncodedFits.cons va.isLt EncodedFits.nil))

theorem EncodedFits.readHalf (d : Domain) (va : Word) : EncodedFits.Statement (.readHalf d va) := fun _ =>
  EncodedFits.command .readHalf _ (EncodedFits.cons d.code_lt (EncodedFits.cons va.isLt EncodedFits.nil))

theorem EncodedFits.readWord (d : Domain) (va : Word) : EncodedFits.Statement (.readWord d va) := fun _ =>
  EncodedFits.command .readWord _ (EncodedFits.cons d.code_lt (EncodedFits.cons va.isLt EncodedFits.nil))

theorem EncodedFits.readDouble (d : Domain) (va : Word) : EncodedFits.Statement (.readDouble d va) := fun _ =>
  EncodedFits.command .readDouble _ (EncodedFits.cons d.code_lt (EncodedFits.cons va.isLt EncodedFits.nil))

theorem EncodedFits.readQuad (d : Domain) (va : Word) : EncodedFits.Statement (.readQuad d va) := fun _ =>
  EncodedFits.command .readQuad _ (EncodedFits.cons d.code_lt (EncodedFits.cons va.isLt EncodedFits.nil))

theorem EncodedFits.writeByte (d : Domain) (va : Word) (v : BitVec 8) : EncodedFits.Statement (.writeByte d va v) := fun _ =>
  EncodedFits.command .writeByte _ (EncodedFits.cons d.code_lt (EncodedFits.cons va.isLt (EncodedFits.cons v.isLt EncodedFits.nil)))

theorem EncodedFits.writeHalf (d : Domain) (va : Word) (v : BitVec 16) : EncodedFits.Statement (.writeHalf d va v) := fun _ =>
  EncodedFits.command .writeHalf _ (EncodedFits.cons d.code_lt (EncodedFits.cons va.isLt (EncodedFits.cons v.isLt EncodedFits.nil)))

theorem EncodedFits.writeWord (d : Domain) (va : Word) (v : BitVec 32) : EncodedFits.Statement (.writeWord d va v) := fun _ =>
  EncodedFits.command .writeWord _ (EncodedFits.cons d.code_lt (EncodedFits.cons va.isLt (EncodedFits.cons v.isLt EncodedFits.nil)))

theorem EncodedFits.writeDouble (d : Domain) (va : Word) (v : BitVec 64) : EncodedFits.Statement (.writeDouble d va v) := fun _ =>
  EncodedFits.command .writeDouble _ (EncodedFits.cons d.code_lt (EncodedFits.cons va.isLt (EncodedFits.cons v.isLt EncodedFits.nil)))

theorem EncodedFits.writeQuad (d : Domain) (va : Word) (v : BitVec 128) : EncodedFits.Statement (.writeQuad d va v) := fun _ =>
  EncodedFits.command .writeQuad _ (EncodedFits.cons d.code_lt (EncodedFits.cons va.isLt (EncodedFits.cons v.isLt EncodedFits.nil)))

theorem EncodedFits.translateVirtualAddress (d : Domain) (va : Word) : EncodedFits.Statement (.translateVirtualAddress d va) := fun _ =>
  EncodedFits.command .translateVirtualAddress _ (EncodedFits.cons d.code_lt (EncodedFits.cons va.isLt EncodedFits.nil))

theorem EncodedFits.validCodeRegion (d : Domain) (va : Word) : EncodedFits.Statement (.validCodeRegion d va) := fun _ =>
  EncodedFits.command .validCodeRegion _ (EncodedFits.cons d.code_lt (EncodedFits.cons va.isLt EncodedFits.nil))

theorem EncodedFits.dmaReset : EncodedFits.Statement (.dmaReset) := fun _ =>
  EncodedFits.command .dmaReset _ EncodedFits.nil

theorem EncodedFits.dmaRun (cycles : Nat) : EncodedFits.Statement (.dmaRun cycles) := fun h =>
  EncodedFits.command .dmaRun _ (EncodedFits.cons (by simpa [Instr.wellFormed] using h) EncodedFits.nil)

theorem EncodedFits.dmaReadRegister (w : Width) (a : Word) : EncodedFits.Statement (.dmaReadRegister w a) := fun _ =>
  EncodedFits.command .dmaReadRegister _ (EncodedFits.cons w.code_lt (EncodedFits.cons a.isLt EncodedFits.nil))

theorem EncodedFits.dmaWriteRegister (w : Width) (a : Word) (data : BitVec 64) : EncodedFits.Statement (.dmaWriteRegister w a data) := fun _ =>
  EncodedFits.command .dmaWriteRegister _ (EncodedFits.cons w.code_lt (EncodedFits.cons a.isLt (EncodedFits.cons data.isLt EncodedFits.nil)))

theorem EncodedFits.writeSide0Fifo (w : Word) : EncodedFits.Statement (.writeSide0Fifo w) := fun _ =>
  EncodedFits.command .writeSide0Fifo _ (EncodedFits.cons w.isLt EncodedFits.nil)

theorem EncodedFits.writeSide1FifoWord (w : Word) : EncodedFits.Statement (.writeSide1FifoWord w) := fun _ =>
  EncodedFits.command .writeSide1FifoWord _ (EncodedFits.cons w.isLt EncodedFits.nil)

theorem EncodedFits.writeSide1FifoWide (v : BitVec 64) : EncodedFits.Statement (.writeSide1FifoWide v) := fun _ =>
  EncodedFits.command .writeSide1FifoWide _ (EncodedFits.cons v.isLt EncodedFits.nil)

theorem EncodedFits.readSide0Fifo : EncodedFits.Statement (.readSide0Fifo) := fun _ =>
  EncodedFits.command .readSide0Fifo _ EncodedFits.nil

theorem EncodedFits.readSide1Fifo : EncodedFits.Statement (.readSide1Fifo) := fun _ =>
  EncodedFits.command .readSide1Fifo _ EncodedFits.nil

theorem EncodedFits.getSide0FifoSize : EncodedFits.Statement (.getSide0FifoSize) := fun _ =>
  EncodedFits.command .getSide0FifoSize _ EncodedFits.nil

theorem EncodedFits.getSide1FifoSize : EncodedFits.Statement (.getSide1FifoSize) := fun _ =>
  EncodedFits.command .getSide1FifoSize _ EncodedFits.nil

theorem EncodedFits.sifReadRegister (side : Domain) (reg : SifReg) : EncodedFits.Statement (.sifReadRegister side reg) := fun _ =>
  EncodedFits.command .sifReadRegister _ (EncodedFits.cons side.code_lt (EncodedFits.cons reg.code_lt EncodedFits.nil))

theorem EncodedFits.sifWriteMscom (side : Domain) (v : Word) : EncodedFits.Statement (.sifWriteMscom side v) := fun _ =>
  EncodedFits.command .sifWriteRegister _ (EncodedFits.cons side.code_lt (EncodedFits.cons (SifReg.code_lt .mscom) (EncodedFits.cons v.isLt EncodedFits.nil)))

theorem EncodedFits.sifWriteSmcom (side : Domain) (v : Word) : EncodedFits.Statement (.sifWriteSmcom side v) := fun _ =>
  EncodedFits.command .sifWriteRegister _ (EncodedFits.cons side.code_lt (EncodedFits.cons (SifReg.code_lt .smcom) (EncodedFits.cons v.isLt EncodedFits.nil)))

theorem EncodedFits.sifWriteMsflag (side : Domain) (v : Word) : EncodedFits.Statement (.sifWriteMsflag side v) := fun _ =>
  EncodedFits.command .sifWriteRegister _ (EncodedFits.cons side.code_lt (EncodedFits.cons (SifReg.code_lt .msflag) (EncodedFits.cons v.isLt EncodedFits.nil)))

theorem EncodedFits.sifWriteSmflag (side : Domain) (v : Word) : EncodedFits.Statement (.sifWriteSmflag side v) := fun _ =>
  EncodedFits.command .sifWriteRegister _ (EncodedFits.cons side.code_lt (EncodedFits.cons (SifReg.code_lt .smflag) (EncodedFits.cons v.isLt EncodedFits.nil)))

theorem EncodedFits.sifWriteCtrl (side : Domain) (v : Word) : EncodedFits.Statement (.sifWriteCtrl side v) := fun _ =>
  EncodedFits.command .sifWriteRegister _ (EncodedFits.cons side.code_lt (EncodedFits.cons (SifReg.code_lt .ctrl) (EncodedFits.cons v.isLt EncodedFits.nil)))

theorem EncodedFits.sifWriteBd6 (side : Domain) (v : Word) : EncodedFits.Statement (.sifWriteBd6 side v) := fun _ =>
  EncodedFits.command .sifWriteRegister _ (EncodedFits.cons side.code_lt (EncodedFits.cons (SifReg.code_lt .bd6) (EncodedFits.cons v.isLt EncodedFits.nil)))

theorem EncodedFits.ldDpcr : EncodedFits.Statement (.ldDpcr) := fun _ =>
  EncodedFits.busLoad _

theorem EncodedFits.stDpcr (v : Word) : EncodedFits.Statement (.stDpcr v) := fun _ =>
  EncodedFits.busStore _ v

theorem EncodedFits.ldDicr : EncodedFits.Statement (.ldDicr) := fun _ =>
  EncodedFits.busLoad _

theorem EncodedFits.stDicr (v : Word) : EncodedFits.Statement (.stDicr v) := fun _ =>
  EncodedFits.busStore _ v

theorem EncodedFits.ldDpcr2 : EncodedFits.Statement (.ldDpcr2) := fun _ =>
  EncodedFits.busLoad _

theorem EncodedFits.stDpcr2 (v : Word) : EncodedFits.Statement (.stDpcr2 v) := fun _ =>
  EncodedFits.busStore _ v

theorem EncodedFits.ldDicr2 : EncodedFits.Statement (.ldDicr2) := fun _ =>
  EncodedFits.busLoad _

theorem EncodedFits.stDicr2 (v : Word) : EncodedFits.Statement (.stDicr2 v) := fun _ =>
  EncodedFits.busStore _ v

theorem EncodedFits.ldDmacen : EncodedFits.Statement (.ldDmacen) := fun _ =>
  EncodedFits.busLoad _

theorem EncodedFits.stDmacen (v : Word) : EncodedFits.Statement (.stDmacen v) := fun _ =>
  EncodedFits.busStore _ v

theorem EncodedFits.ldDmacinten : EncodedFits.Statement (.ldDmacinten) := fun _ =>
  EncodedFits.busLoad _

theorem EncodedFits.stDmacinten (v : Word) : EncodedFits.Statement (.stDmacinten v) := fun _ =>
  EncodedFits.busStore _ v

theorem EncodedFits.ldMadr (slot : BitVec 4) : EncodedFits.Statement (.ldMadr slot) := fun _ =>
  EncodedFits.chanLoad .madr slot

theorem EncodedFits.stMadr (slot : BitVec 4) (v : Word) : EncodedFits.Statement (.stMadr slot v) := fun _ =>
  EncodedFits.chanStore .madr slot v.toNat v.isLt

theorem EncodedFits.ldBcr (slot : BitVec 4) : EncodedFits.Statement (.ldBcr slot) := fun _ =>
  EncodedFits.chanLoad .bcr slot

theorem EncodedFits.stBcr (slot : BitVec 4) (v : Word) : EncodedFits.Statement (.stBcr slot v) := fun _ =>
  EncodedFits.chanStore .bcr slot v.toNat v.isLt

theorem EncodedFits.ldBcrCount (slot : BitVec 4) : EncodedFits.Statement (.ldBcrCount slot) := fun _ =>
  EncodedFits.chanLoad .bcrCount slot

theorem EncodedFits.stBcrCount (slot : BitVec 4) (v : BitVec 16) : EncodedFits.Statement (.stBcrCount slot v) := fun _ =>
  EncodedFits.chanStore .bcrCount slot v.toNat v.isLt

theorem EncodedFits.ldChcr (slot : BitVec 4) : EncodedFits.Statement (.ldChcr slot) := fun _ =>
  EncodedFits.chanLoad .chcr slot

theorem EncodedFits.stChcr (slot : BitVec 4) (v : Word) : EncodedFits.Statement (.stChcr slot v) := fun _ =>
  EncodedFits.chanStore .chcr slot v.toNat v.isLt

theorem EncodedFits.ldTadr (slot : BitVec 4) : EncodedFits.Statement (.ldTadr slot) := fun _ =>
  EncodedFits.chanLoad .tadr slot

theorem EncodedFits.stTadr (slot : BitVec 4) (v : Word) : EncodedFits.Statement (.stTadr slot v) := fun _ =>
  EncodedFits.chanStore .tadr slot v.toNat v.isLt

theorem EncodedFits.ldMscomP : EncodedFits.Statement (.ldMscomP) := fun _ =>
  EncodedFits.busLoad _

theorem EncodedFits.stMscomP (v : Word) : EncodedFits.Statement (.stMscomP v) := fun _ =>
  EncodedFits.busStore _ v

theorem EncodedFits.ldSmcomP : EncodedFits.Statement (.ldSmcomP) := fun _ =>
  EncodedFits.busLoad _

theorem EncodedFits.stSmcomP (v : Word) : EncodedFits.Statement (.stSmcomP v) := fun _ =>
  EncodedFits.busStore _ v

theorem EncodedFits.ldMsflagP : EncodedFits.Statement (.ldMsflagP) := fun _ =>
  EncodedFits.busLoad _

theorem EncodedFits.stMsflagP (v : Word) : EncodedFits.Statement (.stMsflagP v) := fun _ =>
  EncodedFits.busStore _ v

theorem EncodedFits.ldSmflagP : EncodedFits.Statement (.ldSmflagP) := fun _ =>
  EncodedFits.busLoad _

theorem EncodedFits.stSmflagP (v : Word) : EncodedFits.Statement (.stSmflagP v) := fun _ =>
  EncodedFits.busStore _ v

theorem EncodedFits.ldCtrlP : EncodedFits.Statement (.ldCtrlP) := fun _ =>
  EncodedFits.busLoad _

theorem EncodedFits.stCtrlP (v : Word) : EncodedFits.Statement (.stCtrlP v) := fun _ =>
  EncodedFits.busStore _ v

theorem EncodedFits.ldBd6P : EncodedFits.Statement (.ldBd6P) := fun _ =>
  EncodedFits.busLoad _

theorem EncodedFits.stBd6P (v : Word) : EncodedFits.Statement (.stBd6P v) := fun _ =>
  EncodedFits.busStore _ v

theorem EncodedFits.ldMscomS : EncodedFits.Statement (.ldMscomS) := fun _ =>
  EncodedFits.busLoad _

theorem EncodedFits.stMscomS (v : Word) : EncodedFits.Statement (.stMscomS v) := fun _ =>
  EncodedFits.busStore _ v

theorem EncodedFits.ldSmcomS : EncodedFits.Statement (.ldSmcomS) := fun _ =>
  EncodedFits.busLoad _

theorem EncodedFits.stSmcomS (v : Word) : EncodedFits.Statement (.stSmcomS v) := fun _ =>
  EncodedFits.busStore _ v

theorem EncodedFits.ldMsflagS : EncodedFits.Statement (.ldMsflagS) := fun _ =>
  EncodedFits.busLoad _

theorem EncodedFits.stMsflagS (v : Word) : EncodedFits.Statement (.stMsflagS v) := fun _ =>
  EncodedFits.busStore _ v

theorem EncodedFits.ldSmflagS : EncodedFits.Statement (.ldSmflagS) := fun _ =>
  EncodedFits.busLoad _

theorem EncodedFits.stSmflagS (v : Word) : EncodedFits.Statement (.stSmflagS v) := fun _ =>
  EncodedFits.busStore _ v

theorem EncodedFits.ldCtrlS : EncodedFits.Statement (.ldCtrlS) := fun _ =>
  EncodedFits.busLoad _

theorem EncodedFits.stCtrlS (v : Word) : EncodedFits.Statement (.stCtrlS v) := fun _ =>
  EncodedFits.busStore _ v

theorem EncodedFits.ldBd6S : EncodedFits.Statement (.ldBd6S) := fun _ =>
  EncodedFits.busLoad _

theorem EncodedFits.stBd6S (v : Word) : EncodedFits.Statement (.stBd6S v) := fun _ =>
  EncodedFits.busStore _ v

end Sys2Proof.Laws
end

