-- ==== Sys2Proof/Tests/Slice0.lean ====
section
/-! SUPPORT. The model's own tests. Expected results come from the spec: the worked examples and vectors of
95_test_vectors.md, named beside each test, and the rules they cite. Then, for every obligation with hypotheses, states
and operands that meet them. -/

namespace Sys2Proof.Tests

open Sys2Proof.Machine

/-! ## Start states -/

/-- Address space P after system assembly (20_memory.md R100). -/
def spaceP : AddrSpace where
  regions := [⟨0x1FC00000, 0x20000000, 0x003FFFFF, .bootRom⟩, ⟨0x70000000, 0x70004000, 0x3FFF, .scratch⟩,
    ⟨0, 0x2000000, 0x1FFFFFF, .mainRam⟩]
  readHandlers := [⟨0x1000F200, 0x1000F270, .sif⟩]
  writeHandlers := [⟨0x1000F200, 0x1000F270, .sif⟩]

/-- Address space S after system assembly (20_memory.md R100). -/
def spaceS : AddrSpace where
  regions := [⟨0x1FC00000, 0x20000000, 0x003FFFFF, .bootRom⟩, ⟨0, 0x200000, 0x1FFFFF, .iopRam⟩]
  readHandlers := [⟨0x1F801080, 0x1F801100, .dma⟩, ⟨0x1F801500, 0x1F801580, .dma⟩, ⟨0x1D000000, 0x1D000070, .sif⟩]
  writeHandlers := [⟨0x1F801080, 0x1F801100, .dma⟩, ⟨0x1F801500, 0x1F801580, .dma⟩, ⟨0x1D000000, 0x1D000070, .sif⟩]

/-- The assembled state, the start of the vectors of 95_test_vectors.md. -/
def assembled : State := { State.reset with asP := spaceP, asS := spaceS }

/-- The cells of consecutive words. -/
def wordCells (off : Nat) (ws : List Word) : Memory :=
  match ws with
  | [] => []
  | w :: ws => (off, w.extractLsb' 0 8) :: (off + 1, w.extractLsb' 8 8) :: (off + 2, w.extractLsb' 16 8) ::
      (off + 3, w.extractLsb' 24 8) :: wordCells (off + 4) ws

/-- The assembled state with words in IOP RAM. -/
def withIopRam (off : Nat) (ws : List Word) : State :=
  { assembled with stores := { assembled.stores with iopRam := wordCells off ws } }

/-- A state with one channel enabled at both places, and its fields set. -/
def withChannel (s : State) (c : Fin 13) (base : Word) (count : BitVec 16) (tag : Word) (ends : Bool) : State :=
  { s with
    ch := s.ch.set c { base := base, size := 0, count := count, control := 0x01000000, tag := tag, endTransfer := ends }
    dpcr0 := if c.val < 7 then s.dpcr0 ||| 0x8 <<< (4 * c.val) else s.dpcr0
    dpcr1 := if c.val < 7 then s.dpcr1 else s.dpcr1 ||| 0x8 <<< (4 * (c.val - 7)) }

/-- A state with words queued in FIFO side 1. -/
def withFifo1 (s : State) (ws : List Word) : State := { s with sif := { s.sif with fifo1 := ws } }

/-- A state with words queued in FIFO side 0. -/
def withFifo0 (s : State) (ws : List Word) : State := { s with sif := { s.sif with fifo0 := ws } }

/-- A state with a bound on the FIFOs. -/
def withDepth (s : State) (k : Nat) : State := { s with params := { s.params with fifoDepth := some k } }

/-! ## What a test looks at -/

/-- The next state of a command, if it answers one. -/
def answer (i : Instr) (s : State) : Option State :=
  match exec i s with
  | .next t => some t
  | .fault _ => none
  | .refused _ => none

/-- What a command returned. -/
def resultAfter (i : Instr) (s : State) : Option Result := (answer i s).map (·.result)

/-- The output log after a command. -/
def outAfter (i : Instr) (s : State) : Option (List Event) := (answer i s).map (·.out)

/-- Why a command raised, if it did. -/
def faultAfter (i : Instr) (s : State) : Option (Option Cause) := (answer i s).map fun t => t.fault.map (·.cause)

/-- One channel after a command. -/
def channelAfter (c : Fin 13) (i : Instr) (s : State) : Option Channel := (answer i s).map (·.chan c)

/-- The SIF after a command. -/
def sifAfter (i : Instr) (s : State) : Option Sif := (answer i s).map (·.sif)

/-! ## Well-formed commands: one ill-formed term for each check -/

theorem test_wellFormed_region_end : (Instr.registerRegion .S 0 (2 ^ 32) 0 .iopRam).wellFormed = true ∧
    (Instr.registerRegion .S 0 (2 ^ 32 + 1) 0 .iopRam).wellFormed = false := by decide
theorem test_wellFormed_read_window_end : (Instr.registerReadHandler .S 0 (2 ^ 32) .dma).wellFormed = true ∧
    (Instr.registerReadHandler .S 0 (2 ^ 32 + 1) .dma).wellFormed = false := by decide
theorem test_wellFormed_write_window_end : (Instr.registerWriteHandler .P 0 (2 ^ 32) .sif).wellFormed = true ∧
    (Instr.registerWriteHandler .P 0 (2 ^ 32 + 1) .sif).wellFormed = false := by decide
theorem test_wellFormed_device_number :
    (Instr.registerReadHandler .S 0 16 (.device (2 ^ 32 - 3))).wellFormed = true ∧
    (Instr.registerReadHandler .S 0 16 (.device (2 ^ 32 - 2))).wellFormed = false ∧
    (Instr.registerWriteHandler .S 0 16 (.device (2 ^ 32 - 2))).wellFormed = false := by decide
theorem test_wellFormed_cycles : (Instr.dmaRun (2 ^ 64 - 1)).wellFormed = true ∧
    (Instr.dmaRun (2 ^ 64)).wellFormed = false := by decide
theorem test_wellFormed_register_data : (Instr.dmaWriteRegister .w16 0x1F801526 0xFFFF).wellFormed = true ∧
    (Instr.dmaWriteRegister .w16 0x1F801526 0x10000).wellFormed = false ∧
    (Instr.dmaWriteRegister .w8 0x1F801526 0x100).wellFormed = false ∧
    (Instr.dmaWriteRegister .w32 0x1F801528 0x100000000).wellFormed = false := by decide
theorem test_wellFormed_low_slots :
    [Instr.ldMadr 7, .ldMadr 15, .stMadr 7 0, .stMadr 15 0, .ldBcr 7, .ldBcr 15, .stBcr 7 0, .stBcr 15 0].map
      Instr.wellFormed = List.replicate 8 false := by decide
theorem test_wellFormed_high_slots :
    [Instr.ldChcr 7, .stChcr 7 0, .ldTadr 7, .stTadr 7 0].map Instr.wellFormed = List.replicate 4 false ∧
    [Instr.ldChcr 15, .stChcr 15 0, .ldTadr 15, .stTadr 15 0, .ldBcrCount 7].map Instr.wellFormed =
      List.replicate 5 true := by decide

/-! ## Decoding: every constructor, from bytes written out from the spec's tables and the frame of log 2

A command is its selector (30_encoding.md R140) and its operands; a register access is its address (R121, R150), 0 or 1
for read or write, and its data; a channel access is the low address byte, slot and offset (R125, R126). -/

/-- A frame: bytes, and zeros up to 22. -/
def frame (bs : List Byte) : List Byte := bs ++ List.replicate (22 - bs.length) 0

/-- A command item. -/
def cmd (bs : List Byte) : PortItem := ⟨.command, frame bs⟩

/-- A register access item. -/
def bus (bs : List Byte) : PortItem := ⟨.mmio32, frame bs⟩

/-- A channel register access item. -/
def chan (bs : List Byte) : PortItem := ⟨.mmioChannel, frame bs⟩

theorem test_decode_registrations :
    decode (cmd [0x01, 1, 0x00, 0x00, 0xC0, 0x1F, 0x00, 0x00, 0x00, 0x20, 0x00, 0xFF, 0xFF, 0x3F, 0x00, 2]) =
      .ok (.registerRegion .S 0x1FC00000 0x20000000 0x003FFFFF .bootRom) ∧
    decode (cmd [0x02, 1, 0x80, 0x10, 0x80, 0x1F, 0x00, 0x11, 0x80, 0x1F, 0x00, 0, 0, 0, 0]) =
      .ok (.registerReadHandler .S 0x1F801080 0x1F801100 .dma) ∧
    decode (cmd [0x03, 0, 0x00, 0xF2, 0x00, 0x10, 0x00, 0x00, 0x00, 0x00, 0x01, 5, 0, 0, 0]) =
      .ok (.registerWriteHandler .P 0x1000F200 0x100000000 (.device 3)) := ⟨rfl, rfl, rfl⟩

theorem test_decode_reads :
    decode (cmd [0x10, 1, 0x01, 0x01, 0x00, 0xA0]) = .ok (.readByte .S 0xA0000101) ∧
    decode (cmd [0x11, 1, 0x02, 0x01, 0x00, 0x80]) = .ok (.readHalf .S 0x80000102) ∧
    decode (cmd [0x12, 0, 0x1C, 0x00, 0x00, 0x70]) = .ok (.readWord .P 0x7000001C) ∧
    decode (cmd [0x13, 1, 0x00, 0x01, 0x00, 0x00]) = .ok (.readDouble .S 0x100) ∧
    decode (cmd [0x14, 0, 0x08, 0x10, 0x00, 0x00]) = .ok (.readQuad .P 0x1008) := ⟨rfl, rfl, rfl, rfl, rfl⟩

theorem test_decode_writes :
    decode (cmd [0x18, 1, 0x34, 0x12, 0x00, 0x00, 0x5A]) = .ok (.writeByte .S 0x1234 0x5A) ∧
    decode (cmd [0x19, 1, 0x26, 0x15, 0x80, 0x1F, 0x07, 0x00]) = .ok (.writeHalf .S 0x1F801526 0x0007) ∧
    decode (cmd [0x1A, 1, 0x00, 0x00, 0xC0, 0x1F, 0xEF, 0xBE, 0xAD, 0xDE]) = .ok (.writeWord .S 0x1FC00000 0xDEADBEEF) ∧
    decode (cmd [0x1B, 0, 0x08, 0, 0, 0, 0x11, 0x22, 0x33, 0x44, 0x55, 0x66, 0x77, 0x88]) =
      .ok (.writeDouble .P 0x8 0x8877665544332211) ∧
    decode (cmd [0x1C, 0, 0x10, 0x00, 0x00, 0x70, 0x11, 0x11, 0x11, 0x11, 0x22, 0x22, 0x22, 0x22, 0x33, 0x33, 0x33, 0x33,
      0x44, 0x44, 0x44, 0x44]) = .ok (.writeQuad .P 0x70000010 0x44444444333333332222222211111111) :=
  ⟨rfl, rfl, rfl, rfl, rfl⟩

theorem test_decode_queries :
    decode (cmd [0x20, 0, 0x34, 0x12, 0x00, 0x70]) = .ok (.translateVirtualAddress .P 0x70001234) ∧
    decode (cmd [0x21, 1, 0x00, 0x00, 0xC0, 0xBF]) = .ok (.validCodeRegion .S 0xBFC00000) := ⟨rfl, rfl⟩

theorem test_decode_dma :
    decode (cmd [0x30]) = .ok .dmaReset ∧
    decode (cmd [0x31, 1]) = .ok (.dmaRun 1) ∧
    decode (cmd [0x32, 1, 0xF4, 0x10, 0x80, 0x1F]) = .ok (.dmaReadRegister .w16 0x1F8010F4) ∧
    decode (cmd [0x33, 2, 0x26, 0x15, 0x80, 0x1F, 1]) = .ok (.dmaWriteRegister .w32 0x1F801526 1) :=
  ⟨rfl, rfl, rfl, rfl⟩

theorem test_decode_fifo :
    decode (cmd [0x40, 0xAA, 0xAA]) = .ok (.writeSide0Fifo 0xAAAA) ∧
    decode (cmd [0x41, 0xC0, 0xC0, 0xC0, 0xC0]) = .ok (.writeSide1FifoWord 0xC0C0C0C0) ∧
    decode (cmd [0x42, 0x00, 0x40, 0x00, 0x80, 0x04]) = .ok (.writeSide1FifoWide 0x0000000480004000) ∧
    decode (cmd [0x43]) = .ok .readSide0Fifo ∧ decode (cmd [0x44]) = .ok .readSide1Fifo ∧
    decode (cmd [0x45]) = .ok .getSide0FifoSize ∧ decode (cmd [0x46]) = .ok .getSide1FifoSize :=
  ⟨rfl, rfl, rfl, rfl, rfl, rfl, rfl⟩

theorem test_decode_sif :
    decode (cmd [0x50, 1, 0]) = .ok (.sifReadRegister .S .mscom) ∧
    decode (cmd [0x51, 0, 0, 5]) = .ok (.sifWriteMscom .P 5) ∧
    decode (cmd [0x51, 1, 1, 7]) = .ok (.sifWriteSmcom .S 7) ∧
    decode (cmd [0x51, 0, 2, 6]) = .ok (.sifWriteMsflag .P 6) ∧
    decode (cmd [0x51, 1, 3, 0x00, 0x00, 0x01]) = .ok (.sifWriteSmflag .S 0x10000) ∧
    decode (cmd [0x51, 0, 4, 0x00, 0x01]) = .ok (.sifWriteCtrl .P 0x100) ∧
    decode (cmd [0x51, 1, 5, 0xEF, 0xBE, 0xAD, 0xDE]) = .ok (.sifWriteBd6 .S 0xDEADBEEF) :=
  ⟨rfl, rfl, rfl, rfl, rfl, rfl, rfl⟩

theorem test_decode_controller_rows :
    decode (bus [0xF0, 0x10, 0x80, 0x1F]) = .ok .ldDpcr ∧
    decode (bus [0xF0, 0x10, 0x80, 0x1F, 1, 0x00, 0x00, 0x08, 0x00]) = .ok (.stDpcr 0x00080000) ∧
    decode (bus [0xF4, 0x10, 0x80, 0x1F]) = .ok .ldDicr ∧
    decode (bus [0xF4, 0x10, 0x80, 0x1F, 1, 0x00, 0x00, 0x90, 0x10]) = .ok (.stDicr 0x10900000) ∧
    decode (bus [0x70, 0x15, 0x80, 0x1F]) = .ok .ldDpcr2 ∧
    decode (bus [0x70, 0x15, 0x80, 0x1F, 1, 0x00, 0x08, 0x00, 0x00]) = .ok (.stDpcr2 0x00000800) ∧
    decode (bus [0x74, 0x15, 0x80, 0x1F]) = .ok .ldDicr2 ∧
    decode (bus [0x74, 0x15, 0x80, 0x1F, 1, 0x00, 0x00, 0x84, 0x00]) = .ok (.stDicr2 0x00840000) ∧
    decode (bus [0x78, 0x15, 0x80, 0x1F]) = .ok .ldDmacen ∧
    decode (bus [0x78, 0x15, 0x80, 0x1F, 1, 1]) = .ok (.stDmacen 1) ∧
    decode (bus [0x7C, 0x15, 0x80, 0x1F]) = .ok .ldDmacinten ∧
    decode (bus [0x7C, 0x15, 0x80, 0x1F, 1, 1]) = .ok (.stDmacinten 1) :=
  ⟨rfl, rfl, rfl, rfl, rfl, rfl, rfl, rfl, rfl, rfl, rfl, rfl⟩

theorem test_decode_channel_rows :
    decode (chan [0x20]) = .ok (.ldMadr 2) ∧
    decode (chan [0x20, 1, 0x44, 0x23, 0x01, 0xBF]) = .ok (.stMadr 2 0xBF012344) ∧
    decode (chan [0xC4]) = .ok (.ldBcr 12) ∧
    decode (chan [0xC4, 1, 0x10, 0x00, 0x02, 0x00]) = .ok (.stBcr 12 0x00020010) ∧
    decode (chan [0x26]) = .ok (.ldBcrCount 2) ∧
    decode (chan [0xF6, 1, 0x07, 0x00]) = .ok (.stBcrCount 15 7) ∧
    decode (chan [0x28]) = .ok (.ldChcr 2) ∧
    decode (chan [0xF8, 1, 0x00, 0x00, 0x00, 0x01]) = .ok (.stChcr 15 0x01000000) ∧
    decode (chan [0x2C]) = .ok (.ldTadr 2) ∧
    decode (chan [0x2C, 1, 0x01, 0x20, 0x00, 0x80]) = .ok (.stTadr 2 0x80002001) :=
  ⟨rfl, rfl, rfl, rfl, rfl, rfl, rfl, rfl, rfl, rfl⟩

theorem test_decode_sif_rows_P :
    decode (bus [0x00, 0xF2, 0x00, 0x10]) = .ok .ldMscomP ∧ decode (bus [0x00, 0xF2, 0x00, 0x10, 1, 5]) = .ok (.stMscomP 5) ∧
    decode (bus [0x10, 0xF2, 0x00, 0x10]) = .ok .ldSmcomP ∧ decode (bus [0x10, 0xF2, 0x00, 0x10, 1, 5]) = .ok (.stSmcomP 5) ∧
    decode (bus [0x20, 0xF2, 0x00, 0x10]) = .ok .ldMsflagP ∧ decode (bus [0x20, 0xF2, 0x00, 0x10, 1, 5]) = .ok (.stMsflagP 5) ∧
    decode (bus [0x30, 0xF2, 0x00, 0x10]) = .ok .ldSmflagP ∧ decode (bus [0x30, 0xF2, 0x00, 0x10, 1, 5]) = .ok (.stSmflagP 5) ∧
    decode (bus [0x40, 0xF2, 0x00, 0x10]) = .ok .ldCtrlP ∧ decode (bus [0x40, 0xF2, 0x00, 0x10, 1, 5]) = .ok (.stCtrlP 5) ∧
    decode (bus [0x60, 0xF2, 0x00, 0x10]) = .ok .ldBd6P ∧ decode (bus [0x60, 0xF2, 0x00, 0x10, 1, 5]) = .ok (.stBd6P 5) :=
  ⟨rfl, rfl, rfl, rfl, rfl, rfl, rfl, rfl, rfl, rfl, rfl, rfl⟩

theorem test_decode_sif_rows_S :
    decode (bus [0x00, 0x00, 0x00, 0x1D]) = .ok .ldMscomS ∧ decode (bus [0x00, 0x00, 0x00, 0x1D, 1, 5]) = .ok (.stMscomS 5) ∧
    decode (bus [0x10, 0x00, 0x00, 0x1D]) = .ok .ldSmcomS ∧ decode (bus [0x10, 0x00, 0x00, 0x1D, 1, 5]) = .ok (.stSmcomS 5) ∧
    decode (bus [0x20, 0x00, 0x00, 0x1D]) = .ok .ldMsflagS ∧ decode (bus [0x20, 0x00, 0x00, 0x1D, 1, 5]) = .ok (.stMsflagS 5) ∧
    decode (bus [0x30, 0x00, 0x00, 0x1D]) = .ok .ldSmflagS ∧ decode (bus [0x30, 0x00, 0x00, 0x1D, 1, 5]) = .ok (.stSmflagS 5) ∧
    decode (bus [0x40, 0x00, 0x00, 0x1D]) = .ok .ldCtrlS ∧ decode (bus [0x40, 0x00, 0x00, 0x1D, 1, 5]) = .ok (.stCtrlS 5) ∧
    decode (bus [0x60, 0x00, 0x00, 0x1D]) = .ok .ldBd6S ∧ decode (bus [0x60, 0x00, 0x00, 0x1D, 1, 5]) = .ok (.stBd6S 5) :=
  ⟨rfl, rfl, rfl, rfl, rfl, rfl, rfl, rfl, rfl, rfl, rfl, rfl⟩

/-- Items that spell no command are rejected by name (30_encoding.md R145, R122; log 16). -/
theorem test_decode_rejects :
    decode (cmd [0x99]) = .error (.unknownSelector 0x99) ∧ decode ⟨.command, [0x30]⟩ = .error .wrongLength ∧
    decode (cmd [0x30, 1]) = .error .nonzeroPadding ∧ decode (cmd [0x10, 2]) = .error .badOperand ∧
    decode (cmd [0x33, 0, 0, 0, 0, 0, 0, 1]) = .error .badOperand ∧
    decode (bus [0xF8, 0x10, 0x80, 0x1F]) = .error .notARegister ∧ decode (chan [0x70]) = .error .notARegister ∧
    decode (chan [0xF4]) = .error .notARegister ∧ decode (chan [0x22]) = .error .notARegister ∧
    decode (bus [0xF0, 0x10, 0x80, 0x1F, 2]) = .error .badOperand :=
  ⟨rfl, rfl, rfl, rfl, rfl, rfl, rfl, rfl, rfl, rfl⟩

/-- The table's words, as spec/opcode_table.json numbers their bits: a selector, a full address, an offset. -/
theorem test_decodeTableWord :
    decodeTableWord 8 0x31 = some (.dmaRun 0) ∧ decodeTableWord 32 0x1F801574 = some .ldDicr2 ∧
    decodeTableWord 8 0x24 = some (.ldBcr 2) := by decide

/-! ## Steps: address space (95_test_vectors.md L1-1, L1-2, A1 to A28) -/

/-- IOP RAM as in A6 and A9. -/
def ramA9 : State := withIopRam 0x100 [0x11223344, 0x55667788]

/-- A25 and A26; and a window that is free maps its pages with offset and permission (R200). -/
theorem test_registerRegion :
    faultAfter (.registerRegion .S 0 0x1000 0x1FFF .iopRam) assembled = some (some (.configPage .S 0)) ∧
    faultAfter (.registerRegion .S 0x800 0x2000 0x1FFFFF .iopRam) State.reset =
      some (some (.configWindow .S 0x800 0x2000)) ∧
    (answer (.registerRegion .S 0x203000 0x205000 0x1FFFFF .iopRam) assembled).map (fun t => t.asS.pageEntry 0x204000) =
      some (some ⟨.iopRam, 0x4000, .rw⟩) := by decide

/-- A28: an overlap is refused; the first address past a window is free (R201). -/
theorem test_registerReadHandler :
    faultAfter (.registerReadHandler .S 0x1F801080 0x1F801100 (.device 0)) assembled =
      some (some (.configWindow .S 0x1F801080 0x1F801100)) ∧
    (answer (.registerReadHandler .P 0x1000F270 0x1000F271 (.device 4)) assembled).map (fun t => (t.asP, t.asS)) =
      some ({ spaceP with readHandlers := spaceP.readHandlers ++ [⟨0x1000F270, 0x1000F271, .device 4⟩] }, spaceS) := by
  decide

/-- R201: an empty window is refused; read and write windows are independent. -/
theorem test_registerWriteHandler :
    faultAfter (.registerWriteHandler .S 0x1000 0x1000 .dma) assembled = some (some (.configWindow .S 0x1000 0x1000)) ∧
    (answer (.registerWriteHandler .S 0x1F801080 0x1F801100 (.device 0))
      { assembled with asS := { spaceS with writeHandlers := [] } }).map (·.asS.writeHandlers) =
        some [⟨0x1F801080, 0x1F801100, .device 0⟩] := by decide

/-- A7 and B7. -/
theorem test_readByte : resultAfter (.readByte .S 0xA0000101) ramA9 = some (.byte 0x33) ∧
    faultAfter (.readByte .S 0x1F801080) assembled = some (some (.registerDecode 0x1F801080 .w8)) := by decide

/-- A8, A11 and D14. -/
theorem test_readHalf : resultAfter (.readHalf .S 0x102) ramA9 = some (.half 0x1122) ∧
    faultAfter (.readHalf .P 0x1001) assembled = some (some (.misaligned .read .P 2 0x1001)) ∧
    faultAfter (.readHalf .P 0x1000F200) assembled = some (some (.registerWidth 0x1000F200 .w16)) := by decide

/-- A6, A10, A18, B8, B9 and D15. -/
theorem test_readWord : resultAfter (.readWord .S 0x100) ramA9 = some (.word 0x11223344) ∧
    faultAfter (.readWord .S 0x102) assembled = some (some (.misaligned .read .S 4 0x102)) ∧
    resultAfter (.readWord .P 0x10000000) assembled = some (.word 0) ∧
    outAfter (.readWord .P 0x10000000) assembled = some [.diag .read .P 4 0x10000000 none] ∧
    faultAfter (.readWord .S 0x1F801560) assembled = some (some (.channelIndex 0x1F801560)) ∧
    resultAfter (.readWord .S 0x1F801570) assembled = some (.word 0x07654321) ∧
    outAfter (.readWord .P 0x1000F250) assembled = some [.diag .read .P 4 0x1000F250 none] := by decide

/-- A9. -/
theorem test_readDouble : resultAfter (.readDouble .S 0x100) ramA9 = some (.double 0x5566778811223344) := by decide

/-- A12 and A13; the words of an unmapped Quad are served one by one (R210). -/
theorem test_readQuad :
    faultAfter (.readQuad .S 0) assembled = some (some (.quadSecondary 0)) ∧
    faultAfter (.readQuad .P 0x1008) assembled = some (some (.misaligned .quad .P 16 0x1008)) ∧
    outAfter (.readQuad .P 0x10000000) assembled = some [.diag .read .P 4 0x10000000 none,
      .diag .read .P 4 0x10000004 none, .diag .read .P 4 0x10000008 none, .diag .read .P 4 0x1000000C none] := by decide

/-- L1-1: the byte stored, and the ROM unchanged with its event; A19. -/
theorem test_writeByte :
    (answer (.writeByte .S 0x1234 0x5A) assembled).map (·.stores.iopRam) = some [(0x1234, 0x5A)] ∧
    outAfter (.writeByte .S 0x1FC00000 0x5A) assembled = some [.diag .writeRO .S 1 0x1FC00000 (some 0x5A)] ∧
    (answer (.writeByte .P 0x70000003 0xAB) assembled).map (·.stores.scratch) = some [(3, 0xAB)] := by decide

/-- B3 and B6. -/
theorem test_writeHalf :
    channelAfter 9 (.writeHalf .S 0x1F801526 7) assembled = some { Channel.zero with count := 7 } ∧
    faultAfter (.writeHalf .S 0x1F801524 1) assembled = some (some (.registerDecode 0x1F801524 .w16)) := by decide

/-- P3 line 1, A15, A16 and B4. -/
theorem test_writeWord :
    (answer (.writeWord .S 0x100 0x11223344) assembled).map (·.stores.iopRam) =
      some [(0x100, 0x44), (0x101, 0x33), (0x102, 0x22), (0x103, 0x11)] ∧
    outAfter (.writeWord .S 0x1FC00000 0xDEADBEEF) assembled =
      some [.diag .writeRO .S 4 0x1FC00000 (some 0xDEADBEEF)] ∧
    outAfter (.writeWord .P 0x9FC00000 1) assembled = some [.diag .writeRO .P 4 0x9FC00000 (some 1)] ∧
    faultAfter (.writeWord .S 0x1F801526 1) assembled = some (some (.misaligned .write .S 4 0x1F801526)) := by decide

/-- R209: eight bytes, the lowest first, over bytes that were there. -/
theorem test_writeDouble :
    (answer (.writeDouble .S 0x100 0x0807060504030201) ramA9).map (·.stores.iopRam) =
      some [(0x100, 1), (0x101, 2), (0x102, 3), (0x103, 4), (0x104, 5), (0x105, 6), (0x106, 7), (0x107, 8)] := by decide

/-- P3 line 8: the scratch bytes. -/
theorem test_writeQuad :
    (answer (.writeQuad .P 0x70000010 0x44444444333333332222222211111111) assembled).map (·.stores.scratch) =
      some (wordCells 0x10 [0x11111111, 0x22222222, 0x33333333, 0x44444444]) := by decide

/-- A1 to A5. -/
theorem test_translateVirtualAddress :
    resultAfter (.translateVirtualAddress .S 0xBFC00000) assembled = some (.word 0x1FC00000) ∧
    resultAfter (.translateVirtualAddress .S 0xE0001000) assembled = some (.word 0x00001000) ∧
    resultAfter (.translateVirtualAddress .P 0x70001234) assembled = some (.word 0x70001234) ∧
    resultAfter (.translateVirtualAddress .P 0x70004000) assembled = some (.word 0x10004000) ∧
    resultAfter (.translateVirtualAddress .P 0x80001234) assembled = some (.word 0x00001234) := by decide

/-- A20 to A24. -/
theorem test_validCodeRegion :
    resultAfter (.validCodeRegion .S 0xBFC00000) assembled = some (.bool true) ∧
    resultAfter (.validCodeRegion .S 0x1F801080) assembled = some (.bool false) ∧
    resultAfter (.validCodeRegion .P 0x70000000) assembled = some (.bool false) ∧
    resultAfter (.validCodeRegion .P 0x00100000) assembled = some (.bool true) ∧
    resultAfter (.validCodeRegion .S 0x00300000) assembled = some (.bool false) := by decide

/-! ## Steps: DMA registers and transfers (95_test_vectors.md B1 to B21, C1 to C21, E3 to E6) -/

/-- E5 and E6: what `Reset` leaves. -/
theorem test_dmaReset :
    (answer .dmaReset (withFifo0 (withChannel { assembled with latch1 := ⟨0x840000, 0b100⟩ } 9 0x10 2 0x2000 true) [1, 2])).map
      (fun t => (t.chan 9, t.dpcr1, t.latch1, t.sif.fifo0, t.out)) =
        some (Channel.zero, 0x07654321, Latch.zero, [1, 2], []) := by decide

/-- C1 and C19: an end at once; two ends in one `Run`. -/
theorem test_dmaRun_ends :
    (answer (.dmaRun 1) (withChannel assembled 4 0 0 0 false)).map (fun t => (t.chan 4, t.latch0.read, t.out)) =
      some (Channel.zero, 0x10000000, [.audioNotify 4]) ∧
    outAfter (.dmaRun 1) (withChannel (withChannel
      { assembled with latch0 := ⟨0x100000, 0⟩, latch1 := ⟨0x040000, 0⟩ } 4 0 1 0 false) 9 0 0 0 true) =
        some [.irqRequest, .audioNotify 4, .irqRequest] := by decide

/-- C6, C13 and C15: a word from nowhere, a word into memory, a channel of no described kind. -/
theorem test_dmaRun_words :
    (answer (.dmaRun 1) (withChannel assembled 9 0xFFFFFC 1 0 false)).map (fun t => (t.sif.fifo0, t.out, (t.chan 9).base)) =
      some ([0], [.diag .read .S 4 0xFFFFFC none], 0) ∧
    (answer (.dmaRun 1) (withFifo1 (withChannel assembled 10 0x1000 3 0 false) [0x55])).map
      (fun t => (t.stores.iopRam, (t.chan 10).base, (t.chan 10).count, t.sif.fifo1)) =
        some (wordCells 0x1000 [0x55], 0x1004, 2, []) ∧
    faultAfter (.dmaRun 1) (withChannel assembled 0 0 0 0 false) = some (some (.unmodelledChannel 0)) := by decide

/-- 42_dma_transfer.md R300 and 60_exceptions.md R403 (5): after the fatal step of channel 0 the eligible channel 4 makes
no step. -/
theorem test_dmaRun_stops_at_a_raise :
    (answer (.dmaRun 1) (withChannel (withChannel assembled 0 0 0 0 false) 4 0 5 0 false)).map
      (fun t => ((t.chan 4).count, t.fault)) = some (5, some ⟨.unmodelledChannel 0, .command (.dmaRun 1)⟩) := by decide

/-- An outbound channel whose tag starts two words before a DMA window that opens at slot 6. -/
def tagAtSlotSix : State :=
  withChannel { assembled with asS := { spaceS with readHandlers := [⟨0x1F801560, 0x1F801580, .dma⟩] } }
    9 0 0 0x1F801558 false

/-- R311 with R400: the third read raises; the events of the first two stay, and nothing is pushed. -/
theorem test_dmaRun_keeps_effects_before_a_raise :
    (answer (.dmaRun 1) tagAtSlotSix).map (fun t => (t.out, t.sif.fifo0, (t.chan 9).tag, t.fault.map (·.cause))) =
      some ([.diag .read .S 4 0x1F801558 none, .diag .read .S 4 0x1F80155C none], [], 0x1F801558,
        some (.channelIndex 0x1F801560)) := by decide

/-- E4; and any address whose low byte names a register (R240). -/
theorem test_dmaReadRegister :
    faultAfter (.dmaReadRegister .w16 0x1F8010F4) assembled = some (some (.registerDecode 0x1F8010F4 .w16)) ∧
    resultAfter (.dmaReadRegister .w32 0x00000024) (withChannel assembled 9 0x10 3 0 false) = some (.word 0x00030000) := by
  decide

/-- B5 and E3. -/
theorem test_dmaWriteRegister :
    faultAfter (.dmaWriteRegister .w32 0x1F801526 1) assembled = some (some (.registerDecode 0x1F801526 .w32)) ∧
    faultAfter (.dmaWriteRegister .w16 0x1F801566 1) assembled = some (some (.channelIndex 0x1F801566)) := by decide

/-- B9 and B13; P4 line 1. -/
theorem test_dpcr :
    resultAfter .ldDpcr assembled = some (.word 0x07654321) ∧ resultAfter .ldDpcr2 assembled = some (.word 0x07654321) ∧
    (answer (.stDpcr 0x00080000) assembled).map (fun t => (t.dpcr0, t.dpcr1)) = some (0x00080000, 0x07654321) ∧
    (answer (.stDpcr2 0x00000800) assembled).map (fun t => (t.dpcr0, t.dpcr1)) = some (0x07654321, 0x00000800) := by decide

/-- B15 and B16: flags, masks, master enable, force; no event. -/
theorem test_dicr :
    (answer (.stDicr 0x04850000) { assembled with latch0 := ⟨0, 0b101⟩ }).map (fun t => (t.latch0, t.out)) =
      some (⟨0x850000, 0b001⟩, []) ∧
    resultAfter .ldDicr { assembled with latch0 := ⟨0x850000, 0b001⟩ } = some (.word 0x81850000) ∧
    (answer (.stDicr 0x00008000) assembled).map (fun t => (t.latch0.read, t.out)) = some (0x80008000, []) := by decide

/-- B17, B18 and B20. -/
theorem test_dicr2 :
    resultAfter .ldDicr2 { assembled with latch1 := ⟨0x010000, 0b1⟩ } = some (.word 0x01010000) ∧
    (answer (.stDicr2 0x80000000) assembled).map (·.latch1) = some ⟨0, 0⟩ ∧
    (answer (.stDicr2 0x00400000) assembled).map (·.latch1.read) = some 0x00400000 := by decide

/-- B21, and the same for DMACINTEN. -/
theorem test_dmacen :
    resultAfter .ldDmacen { assembled with dmacen := 1 } = some (.word 1) ∧
    resultAfter .ldDmacinten { assembled with dmacinten := 0xFFFFFFFF } = some (.word 0xFFFFFFFF) ∧
    (answer (.stDmacen 1) assembled).map (fun t => (t.dmacen, t.dmacinten)) = some (1, 0) ∧
    (answer (.stDmacinten 1) assembled).map (fun t => (t.dmacen, t.dmacinten)) = some (0, 1) := by decide

/-- A state with channels 7 and 9 set apart. -/
def twoChannels : State :=
  { assembled with ch := (assembled.ch.set 7 ⟨0x70, 0x77, 7, 0x700, 0x7000, false⟩).set 9 ⟨0x90, 0x40, 3, 0x01000201, 0x9000, true⟩ }

/-- B1 to B3, B11 and B12, read by their rows at slot 2 (channel 9); slot 15 reads channel 7 (R126). -/
theorem test_channel_loads :
    resultAfter (.ldMadr 2) twoChannels = some (.word 0x90) ∧ resultAfter (.ldBcr 2) twoChannels = some (.word 0x00030040) ∧
    resultAfter (.ldBcrCount 2) twoChannels = some (.half 3) ∧
    resultAfter (.ldChcr 2) twoChannels = some (.word 0x01000201) ∧
    resultAfter (.ldTadr 2) twoChannels = some (.word 0x9000) ∧ resultAfter (.ldChcr 15) twoChannels = some (.word 0x700) ∧
    resultAfter (.ldBcrCount 15) twoChannels = some (.half 7) := by decide

/-- B1, B2, B3, B10, B11 and B12, written by their rows. -/
theorem test_channel_stores :
    channelAfter 9 (.stMadr 2 0xBF012344) assembled = some { Channel.zero with base := 0x00012344 } ∧
    channelAfter 9 (.stBcr 2 0x00030040) assembled = some { Channel.zero with size := 0x40, count := 3 } ∧
    channelAfter 9 (.stBcrCount 2 7) twoChannels = some ⟨0x90, 0x40, 7, 0x01000201, 0x9000, true⟩ ∧
    channelAfter 7 (.stChcr 15 0x01000000) assembled = some { Channel.zero with control := 0x01000000 } ∧
    channelAfter 9 (.stTadr 2 0x80002001) assembled = some { Channel.zero with tag := 0x80002001 } := by decide

/-- Slot 6 names no channel (B8), by a row. -/
theorem test_channel_slot_six :
    faultAfter (.ldMadr 6) assembled = some (some (.channelIndex 0x1F801560)) ∧
    faultAfter (.stTadr 6 0) assembled = some (some (.channelIndex 0x1F80156C)) := by decide

/-! ## Steps: SIF (95_test_vectors.md D1 to D15) -/

/-- Handshake registers with a value each. -/
def handshake : State := { assembled with sif := ⟨[], [], 1, 2, 6, 0x10000, 0x100, 0xDEADBEEF⟩ }

/-- D1, and a full queue (R351). -/
theorem test_writeSide0Fifo :
    sifAfter (.writeSide0Fifo 0xBBBB) (withFifo0 assembled [0xAAAA]) = some { assembled.sif with fifo0 := [0xAAAA, 0xBBBB] } ∧
    faultAfter (.writeSide0Fifo 1) (withDepth (withFifo0 assembled [1]) 1) = some (some (.fifoOverflow .side0)) := by decide

/-- R352, and a full queue. -/
theorem test_writeSide1FifoWord :
    sifAfter (.writeSide1FifoWord 2) (withFifo1 assembled [1]) = some { assembled.sif with fifo1 := [1, 2] } ∧
    faultAfter (.writeSide1FifoWord 1) (withDepth (withFifo1 assembled [1]) 1) = some (some (.fifoOverflow .side1)) := by
  decide

/-- D4 and D6. -/
theorem test_writeSide1FifoWide :
    sifAfter (.writeSide1FifoWide 0x0000000300001000) assembled = some { assembled.sif with fifo1 := [0x1000, 3] } ∧
    (answer (.writeSide1FifoWide 5) (withDepth (withFifo1 assembled [1]) 2)).map (fun t => (t.fault, t.sif.fifo1)) =
      some (some ⟨.fifoOverflow .side1, .command (.writeSide1FifoWide 5)⟩, [1]) := by decide

/-- D2 and D3. -/
theorem test_pops :
    (answer .readSide0Fifo (withFifo0 assembled [0xAAAA, 0xBBBB])).map (fun t => (t.result, t.sif.fifo0)) =
      some (.word 0xAAAA, [0xBBBB]) ∧
    faultAfter .readSide0Fifo assembled = some (some (.fifoUnderflow .side0)) ∧
    (answer .readSide1Fifo (withFifo1 assembled [5, 6])).map (fun t => (t.result, t.sif.fifo1)) = some (.word 5, [6]) := by
  decide

/-- D1 and D5. -/
theorem test_sizes : resultAfter .getSide0FifoSize (withFifo0 assembled [0xAAAA, 0xBBBB]) = some (.size 2) ∧
    resultAfter .getSide1FifoSize (withFifo1 assembled [0x1000, 3, 0, 0]) = some (.size 4) := by decide

/-- D7 and D12: the same value from either side. -/
theorem test_sifReadRegister : resultAfter (.sifReadRegister .S .mscom) handshake = some (.word 1) ∧
    resultAfter (.sifReadRegister .P .ctrl) handshake = some (.word 0x100) := by decide

/-- D7 to D9. -/
theorem test_com_writes :
    sifAfter (.sifWriteMscom .P 5) handshake = some { handshake.sif with mscom := 5 } ∧
    sifAfter (.sifWriteMscom .S 7) handshake = some handshake.sif ∧
    sifAfter (.sifWriteSmcom .P 7) handshake = some handshake.sif ∧
    sifAfter (.sifWriteSmcom .S 7) handshake = some { handshake.sif with smcom := 7 } := by decide

/-- D10 and D11. -/
theorem test_flag_writes :
    sifAfter (.sifWriteMsflag .P 1) handshake = some { handshake.sif with msflag := 7 } ∧
    sifAfter (.sifWriteMsflag .S 2) handshake = some { handshake.sif with msflag := 4 } ∧
    sifAfter (.sifWriteSmflag .S 1) handshake = some { handshake.sif with smflag := 0x10001 } ∧
    sifAfter (.sifWriteSmflag .P 0x10000) handshake = some { handshake.sif with smflag := 0 } := by decide

/-- D12, and R365. -/
theorem test_shared_writes :
    sifAfter (.sifWriteCtrl .P 0x200) handshake = some { handshake.sif with ctrl := 0x200 } ∧
    sifAfter (.sifWriteBd6 .S 7) handshake = some { handshake.sif with bd6 := 7 } := by decide

/-- Every SIF row reads its own register (R150, R359). -/
theorem test_sif_loads :
    [Instr.ldMscomP, .ldSmcomP, .ldMsflagP, .ldSmflagP, .ldCtrlP, .ldBd6P].map (resultAfter · handshake) =
      [some (.word 1), some (.word 2), some (.word 6), some (.word 0x10000), some (.word 0x100), some (.word 0xDEADBEEF)] ∧
    [Instr.ldMscomS, .ldSmcomS, .ldMsflagS, .ldSmflagS, .ldCtrlS, .ldBd6S].map (resultAfter · handshake) =
      [some (.word 1), some (.word 2), some (.word 6), some (.word 0x10000), some (.word 0x100), some (.word 0xDEADBEEF)] := by
  decide

/-- Every SIF row writes its own register, by its side's rule (R360 to R366). -/
theorem test_sif_stores :
    [Instr.stMscomP 8, .stSmcomP 8, .stMsflagP 9, .stSmflagP 0x10000, .stCtrlP 8, .stBd6P 8].map (sifAfter · handshake) =
      [some { handshake.sif with mscom := 8 }, some handshake.sif, some { handshake.sif with msflag := 15 },
        some { handshake.sif with smflag := 0 }, some { handshake.sif with ctrl := 8 },
        some { handshake.sif with bd6 := 8 }] ∧
    [Instr.stMscomS 8, .stSmcomS 8, .stMsflagS 2, .stSmflagS 9, .stCtrlS 8, .stBd6S 8].map (sifAfter · handshake) =
      [some handshake.sif, some { handshake.sif with smcom := 8 }, some { handshake.sif with msflag := 4 },
        some { handshake.sif with smflag := 0x10009 }, some { handshake.sif with ctrl := 8 },
        some { handshake.sif with bd6 := 8 }] := by decide

/-- A state with a fault recorded. -/
def faulted : State := { assembled with fault := some ⟨.fifoUnderflow .side0, .command .readSide0Fifo⟩ }

/-- E1 and E2; and the record holds the command with its operands (10_state.md R60). -/
theorem test_faults : answer (.writeSide0Fifo 1) faulted = some faulted ∧
    step { assembled with port := [cmd [0x99]] } =
      .next { assembled with fault := some ⟨.unknownCommand 0x99, .unassigned (cmd [0x99])⟩ } ∧
    answer .readSide0Fifo assembled = some faulted ∧
    (answer (.stTadr 6 5) assembled).map (·.fault) = some (some ⟨.channelIndex 0x1F80156C, .command (.stTadr 6 5)⟩) :=
  ⟨by decide, rfl, by decide, by decide⟩

/-! ## Witnesses: states and operands that meet the hypotheses of each obligation, one for each clause -/

/-- The assembled state with opaque handlers on both domains, and the DMA identity on P. -/
def withDevices : State :=
  { assembled with
    asP := { spaceP with
      readHandlers := spaceP.readHandlers ++ [⟨0x10002000, 0x10002010, .device 1⟩, ⟨0x1000E000, 0x1000E010, .dma⟩]
      writeHandlers := spaceP.writeHandlers ++ [⟨0x10002000, 0x10002010, .device 1⟩, ⟨0x1000E000, 0x1000E010, .dma⟩] }
    asS := { spaceS with
      readHandlers := spaceS.readHandlers ++ [⟨0x1F801000, 0x1F801010, .device 2⟩]
      writeHandlers := spaceS.writeHandlers ++ [⟨0x1F801000, 0x1F801010, .device 2⟩] } }

theorem witness_StepRunsDecodedCommand :
    ({ assembled with port := [cmd [0x31, 1]] } : State).Live ∧ decode (cmd [0x31, 1]) = .ok (.dmaRun 1) ∧
    State.reset.port = [] ∧
    ({ faulted with port := [cmd [0x31, 1]] } : State).fault = some ⟨.fifoUnderflow .side0, .command .readSide0Fifo⟩ :=
  ⟨rfl, rfl, rfl, rfl⟩

theorem witness_UnassignedSelectorIsRefused :
    let bytes := List.replicate 21 (0 : Byte)
    let s : State := { assembled with port := [⟨.command, 0x34 :: bytes⟩] }
    s.Live ∧ bytes.length = 21 ∧ s.port = ⟨.command, 0x34 :: bytes⟩ :: [] ∧
    (0x34 : Byte).toNat ∉ [0x01, 0x02, 0x03, 0x10, 0x11, 0x12, 0x13, 0x14, 0x18, 0x19, 0x1A, 0x1B, 0x1C, 0x20, 0x21, 0x30,
      0x31, 0x32, 0x33, 0x40, 0x41, 0x42, 0x43, 0x44, 0x45, 0x46, 0x50, 0x51] := by decide

theorem witness_CommandsAnswerNextAndFreezeAfterAFault :
    faulted.fault = some ⟨.fifoUnderflow .side0, .command .readSide0Fifo⟩ ∧ assembled.Live ∧
    ∃ t, exec .readSide0Fifo assembled = .next t ∧ t.fault = some ⟨.fifoUnderflow .side0, .command .readSide0Fifo⟩ :=
  ⟨rfl, rfl, _, rfl, rfl⟩

/-- A region whose mask keeps the low `k` bits, of a store of `2 ^ k` bytes, is good. -/
theorem region_good (vstart vend k : Nat) (mask : Word) (st : Store) (hk : 12 ≤ k) (hm : mask.toNat = 2 ^ k - 1)
    (hs : Config.storeSize st = 2 ^ k) (h1 : vstart % 4096 = 0) (h2 : vend % 4096 = 0) (h3 : vstart < vend)
    (h4 : vend ≤ 2 ^ 32) : Region.Good ⟨vstart, vend, mask, st⟩ := by
  refine ⟨h1, h2, h3, h4, fun p hp _ => ?_⟩
  show (p &&& mask.toNat) + 4096 ≤ Config.storeSize st
  rw [hm, hs, Nat.and_two_pow_sub_one_eq_mod]
  obtain ⟨q, rfl⟩ := Nat.dvd_of_mod_eq_zero (show p % 4096 = 0 from hp)
  have hpow : 2 ^ k = 4096 * 2 ^ (k - 12) := by
    rw [show (4096 : Nat) = 2 ^ 12 from rfl, ← Nat.pow_add]
    congr 1
    omega
  rw [hpow, Nat.mul_mod_mul_left]
  have := Nat.mod_lt q (Nat.two_pow_pos (k - 12))
  omega

theorem spaceP_good : spaceP.Good where
  regions_good r hr := by
    simp only [spaceP, List.mem_cons, List.not_mem_nil, or_false] at hr
    rcases hr with rfl | rfl | rfl
    · exact region_good _ _ 22 _ _ (by decide) (by decide) (by decide) (by decide) (by decide) (by decide) (by decide)
    · exact region_good _ _ 14 _ _ (by decide) (by decide) (by decide) (by decide) (by decide) (by decide) (by decide)
    · exact region_good _ _ 25 _ _ (by decide) (by decide) (by decide) (by decide) (by decide) (by decide) (by decide)
  regions_apart := by simp [spaceP, Region.Apart]
  read_good := by simp [spaceP, Window.Good]
  read_apart := by simp [spaceP]
  write_good := by simp [spaceP, Window.Good]
  write_apart := by simp [spaceP]

theorem spaceS_good : spaceS.Good where
  regions_good r hr := by
    simp only [spaceS, List.mem_cons, List.not_mem_nil, or_false] at hr
    rcases hr with rfl | rfl
    · exact region_good _ _ 22 _ _ (by decide) (by decide) (by decide) (by decide) (by decide) (by decide) (by decide)
    · exact region_good _ _ 21 _ _ (by decide) (by decide) (by decide) (by decide) (by decide) (by decide) (by decide)
  regions_apart := by simp [spaceS, Region.Apart]
  read_good := by simp [spaceS, Window.Good]
  read_apart := by simp [spaceS, Window.Apart]
  write_good := by simp [spaceS, Window.Good]
  write_apart := by simp [spaceS, Window.Apart]

/-- The assembled state with bytes in memory, words queued and a command at the port. -/
def busy : State := { withFifo1 ramA9 [1, 2] with port := [cmd [0x44]] }

theorem busy_inv : Machine.Inv busy where
  space_good d := by
    cases d
    · exact spaceP_good
    · exact spaceS_good
  stores_good st := by
    have h : ∀ st, Memory.wf (busy.stores.get st) = true ∧
        (busy.stores.get st).all (fun cell => decide (cell.1 < Config.storeSize st)) = true := by
      intro st; cases st <;> decide
    exact ⟨(h st).1, fun cell hc => by simpa using List.all_eq_true.1 (h st).2 cell hc⟩
  base_masked := by decide
  no_seventh_flag := by decide
  fifo_fits side k h := by cases h

theorem witness_InvariantKeptByStep : Machine.Inv busy ∧ ∃ t, step busy = .next t ∧ t.result = .word 1 :=
  ⟨busy_inv, _, rfl, rfl⟩

theorem witness_WhatEveryCommandKeeps : ∃ t, exec (.readWord .P 0x10000000) assembled = .next t ∧ t.out ≠ [] :=
  ⟨_, rfl, by decide⟩

theorem witness_OnlyRunInterrupts : (∀ n, Instr.stDicr 0x00008000 ≠ .dmaRun n) ∧
    ∃ t, exec (.stDicr 0x00008000) { assembled with latch0 := ⟨0, 0b101⟩ } = .next t ∧
      (t.latch .h0).flags.getLsbD 2 = true := ⟨by simp, _, rfl, by decide⟩

theorem witness_OnlyRunAndFifoCommandsMoveWords :
    let i : Instr := .writeWord .P 0x1000F200 5
    (∃ t, exec i assembled = .next t) ∧ (∀ n, i ≠ .dmaRun n) ∧ (∀ w, i ≠ .writeSide0Fifo w) ∧
    (∀ w, i ≠ .writeSide1FifoWord w) ∧ (∀ v, i ≠ .writeSide1FifoWide v) ∧ i ≠ .readSide0Fifo ∧ i ≠ .readSide1Fifo :=
  ⟨⟨_, rfl⟩, by simp, by simp, by simp, by simp, by simp, by simp⟩

/-- An inbound channel whose base, with more than its 24 bits, is the address of SMCOM on S. -/
def inboundAtSmcom : State := withFifo1 (withChannel assembled 10 0x1D000010 1 0 false) [5]

theorem witness_ComRegistersWrittenOnlyFromTheirSide :
    (∃ t, exec (.sifWriteMscom .P 5) assembled = .next t ∧ t.sif.mscom ≠ assembled.sif.mscom) ∧
    (∃ t, exec (.stMscomP 5) assembled = .next t ∧ t.sif.mscom ≠ assembled.sif.mscom) ∧
    (∃ t, exec (.writeWord .P 0x1000F200 5) assembled = .next t ∧ t.sif.mscom ≠ assembled.sif.mscom) ∧
    (∃ t, exec (.writeQuad .P 0x1000F200 5) assembled = .next t ∧ t.sif.mscom ≠ assembled.sif.mscom) ∧
    (∃ t, exec (.sifWriteSmcom .S 5) assembled = .next t ∧ t.sif.smcom ≠ assembled.sif.smcom) ∧
    (∃ t, exec (.stSmcomS 5) assembled = .next t ∧ t.sif.smcom ≠ assembled.sif.smcom) ∧
    (∃ t, exec (.writeWord .S 0x1D000010 5) assembled = .next t ∧ t.sif.smcom ≠ assembled.sif.smcom) ∧
    (∃ t, exec (.dmaRun 1) inboundAtSmcom = .next t ∧ t.sif.smcom ≠ inboundAtSmcom.sif.smcom) ∧
    Machine.Inv busy ∧ ∃ t, exec (.dmaRun 1) busy = .next t :=
  ⟨⟨_, rfl, by decide⟩, ⟨_, rfl, by decide⟩, ⟨_, rfl, by decide⟩, ⟨_, rfl, by decide⟩, ⟨_, rfl, by decide⟩,
    ⟨_, rfl, by decide⟩, ⟨_, rfl, by decide⟩, ⟨_, rfl, by decide⟩, busy_inv, _, rfl⟩

theorem witness_DecodeOfEncode : (Instr.registerRegion .S 0xFFFFF000 (2 ^ 32) 0xFFFFFFFF .scratch).wellFormed = true ∧
    (Instr.dmaRun (2 ^ 64 - 1)).wellFormed = true ∧ (Instr.stChcr 15 0xFFFFFFFF).wellFormed = true := by decide

theorem witness_EncodeOfDecode : decode (chan [0xF6, 1, 0x07, 0x00]) = .ok (.stBcrCount 15 7) := rfl

theorem witness_TranslationRule : assembled.Live ∧
    (0x70000000 ≤ (0x70003FFF : Word).toNat ∧ (0x70003FFF : Word).toNat < 0x70004000) ∧
    (0x6FFFFFFF : Word).toNat < 0x70000000 ∧ 0x70004000 ≤ (0x70004000 : Word).toNat := by decide

theorem witness_LookupRule :
    (spaceS.pageEntry ((translate .S 0x801FFFFF).toNat / 4096 * 4096) = some ⟨.iopRam, 0x1FF000, .rw⟩) ∧
    (spaceS.pageEntry ((translate .S 0x1F80157C).toNat / 4096 * 4096) = none ∧ assembled.asS.Good ∧
      (⟨0x1F801500, 0x1F801580, .dma⟩ : Window) ∈ spaceS.handlers .read ∧
      0x1F801500 ≤ (translate .S 0x1F80157C).toNat ∧ (translate .S 0x1F80157C).toNat < 0x1F801580) ∧
    (spaceS.pageEntry ((translate .S 0x1F801580).toNat / 4096 * 4096) = none ∧
      ∀ w ∈ spaceS.handlers .read, (translate .S 0x1F801580).toNat < w.lo ∨ w.hi ≤ (translate .S 0x1F801580).toNat) ∧
    (8 ∈ [1, 2, 4, 8] ∧ (0xFF8 : Word).toNat % 8 = 0) :=
  ⟨by decide, ⟨by decide, spaceS_good, by decide, by decide, by decide⟩, by decide, by decide⟩

theorem witness_ValidCodeRegionRule : assembled.Live ∧
    (∃ e, (assembled.space .P).pageEntry ((translate .P 0x01FFFFFF).toNat / 4096 * 4096) = some e ∧ e.store = .mainRam) ∧
    (assembled.space .P).pageEntry ((translate .P 0x02000000).toNat / 4096 * 4096) = none :=
  ⟨rfl, ⟨_, rfl, rfl⟩, by decide⟩

theorem witness_RegisterRegionRule :
    let bad := fun (mask : Word) p => (assembled.space .S).pageEntry p ≠ none ∨ (p &&& mask.toNat) + 4096 > Config.storeSize .iopRam
    assembled.Live ∧ (0x200800 : Word).toNat % 4096 ≠ 0 ∧ 0x201800 % 4096 ≠ 0 ∧ (0x201000 : Word).toNat ≥ 0x201000 ∧
    -- the last page of the address space would run past the store, and is the lowest such page
    ((2 ^ 32 % 4096 = 0 ∧ 0xFFFFF000 < 2 ^ 32) ∧ bad 0xFFFFFFFF 0xFFFFF000 ∧
      ∀ p', 0xFFFFF000 ≤ p' → ¬ p' < 0xFFFFF000) ∧
    -- and with a narrower mask it is free
    (∀ p, p % 4096 = 0 → 0xFFFFF000 ≤ p → p < 2 ^ 32 → ¬ bad 0x1FFFFF p) := by
  refine ⟨rfl, by decide, by decide, by decide, ⟨by decide, .inr (by decide), by omega⟩, fun p hp h1 h2 => ?_⟩
  have : p = 0xFFFFF000 := by omega
  subst this
  decide

theorem witness_RegisterHandlerRule : assembled.Live ∧ (0x1000 ≤ (0x1000 : Word).toNat) ∧
    (∃ w ∈ (assembled.space .S).handlers .write, (0x1F8010FF : Word).toNat < w.hi ∧ w.lo < 0x1F801200) ∧
    ((0x1F801100 : Word).toNat < 0x1F801500 ∧
      ¬ ∃ w ∈ (assembled.space .S).handlers .read, (0x1F801100 : Word).toNat < w.hi ∧ w.lo < 0x1F801500) := by decide

theorem witness_FastReadsAreLittleEndian : assembled.Live ∧
    lookup .S .read 0x1FFFFF assembled = .fast .iopRam 0x1FFFFF .rw ∧
    (lookup .S .read 0x1FFFFE assembled = .fast .iopRam 0x1FFFFE .rw ∧ (0x1FFFFE : Word).toNat % 2 = 0) ∧
    (lookup .P .read 0x1FFFFFFC assembled = .fast .bootRom 0x3FFFFC .ro ∧ (0x1FFFFFFC : Word).toNat % 4 = 0) ∧
    (lookup .P .read 0x70003FF8 assembled = .fast .scratch 0x3FF8 .rw ∧ (0x70003FF8 : Word).toNat % 8 = 0) := by decide

theorem witness_FastWritesStoreTheirBytes : assembled.Live ∧
    lookup .S .write 0x1FFFFF assembled = .fast .iopRam 0x1FFFFF .rw ∧
    (lookup .P .write 0x70000002 assembled = .fast .scratch 2 .rw ∧ (0x70000002 : Word).toNat % 2 = 0) ∧
    (lookup .P .write 0x81FFFFFC assembled = .fast .mainRam 0x1FFFFFC .rw ∧ (0x81FFFFFC : Word).toNat % 4 = 0) ∧
    (lookup .P .write 0x01FFFFF8 assembled = .fast .mainRam 0x1FFFFF8 .rw ∧ (0x01FFFFF8 : Word).toNat % 8 = 0) := by decide

theorem witness_ReadOnlyPagesDropWrites : assembled.Live ∧
    lookup .S .write 0x1FFFFFFF assembled = .fast .bootRom 0x3FFFFF .ro ∧
    (lookup .P .write 0x9FC00000 assembled = .fast .bootRom 0 .ro ∧ (0x9FC00000 : Word).toNat % 2 = 0 ∧
      (0x9FC00000 : Word).toNat % 4 = 0 ∧ (0x9FC00000 : Word).toNat % 8 = 0) := by decide

theorem witness_UnmappedAccesses : assembled.Live ∧
    (lookup .S .read 0xA0200000 assembled = .unmapped 0x00200000 ∧ (0xA0200000 : Word).toNat % 8 = 0) ∧
    (lookup .P .write 0x70004000 assembled = .unmapped 0x10004000 ∧ (0x70004000 : Word).toNat % 8 = 0) := by decide

theorem witness_MisalignedAccessesRefused : assembled.Live ∧ (0x1F801523 : Word).toNat % 2 ≠ 0 ∧
    (0x1F801526 : Word).toNat % 4 ≠ 0 ∧ (0x104 : Word).toNat % 8 ≠ 0 := by decide

theorem witness_QuadIsFourWordAccesses : assembled.Live ∧ (0x1008 : Word).toNat % 16 ≠ 0 ∧
    (0x1000F200 : Word).toNat % 16 = 0 := by decide

theorem witness_QuadsOnTheFastPath : assembled.Live ∧ (0x01FFFFF0 : Word).toNat % 16 = 0 ∧
    lookup .P .read 0x01FFFFF0 assembled = .fast .mainRam 0x1FFFFF0 .rw ∧
    lookup .P .read 0x1FC00000 assembled = .fast .bootRom 0 .ro := by decide

theorem witness_ByteRoundTrip : assembled.Live ∧ lookup .S .write 0x801FFFFF assembled = .fast .iopRam 0x1FFFFF .rw ∧
    lookup .S .read 0xA01FFFFF assembled = .fast .iopRam 0x1FFFFF .rw := by decide

theorem witness_OpaqueHandlerAccesses : withDevices.Live ∧
    (lookup .P .read 0x10002008 withDevices = .handler (.device 1) 0x10002008 ∧ (0x10002008 : Word).toNat % 8 = 0) ∧
    (lookup .S .write 0x9F801008 withDevices = .handler (.device 2) 0x1F801008 ∧ (0x9F801008 : Word).toNat % 8 = 0) ∧
    (lookup .P .read 0x1000E000 withDevices = .handler .dma 0x1000E000 ∧ (0x1000E000 : Word).toNat % 8 = 0) := by decide

theorem witness_DmaHandlerIsRegisterCommand :
    (lookup .S .read 0xBF801080 assembled = .handler .dma 0x1F801080 ∧ (0xBF801080 : Word).toNat % 8 = 0) ∧
    (lookup .S .write 0x1F801578 assembled = .handler .dma 0x1F801578 ∧ (0x1F801578 : Word).toNat % 8 = 0) := by decide

theorem witness_PlainControllerRegisters : assembled.Live ∧ ∀ dir ∈ [Dir.read, .write],
    lookup .S dir 0x1F8010F0 assembled = .handler .dma 0x1F8010F0 ∧
    lookup .S dir 0x1F801570 assembled = .handler .dma 0x1F801570 ∧
    lookup .S dir 0x1F801578 assembled = .handler .dma 0x1F801578 ∧
    lookup .S dir 0x1F80157C assembled = .handler .dma 0x1F80157C := by decide

theorem witness_InterruptLatchRegisters : assembled.Live ∧ ∀ dir ∈ [Dir.read, .write],
    lookup .S dir 0x1F8010F4 assembled = .handler .dma 0x1F8010F4 ∧
    lookup .S dir 0x1F801574 assembled = .handler .dma 0x1F801574 := by decide

theorem witness_WriteOneToClearLaw :
    let s : State := { assembled with latch0 := ⟨0xFFFFFF, 5⟩, latch1 := ⟨0, 5⟩ }
    s.Live ∧ ∀ h ∈ [Half.h0, .h1], (s.latch h).flags = 0b0000101 := by decide

theorem witness_LatchReadModifyWriteHazard :
    let s : State := { assembled with latch1 := ⟨0, 0b0000001⟩ }
    let s' : State := { assembled with latch1 := ⟨0, 0b0000101⟩ }
    s.Live ∧ s'.Live ∧ ∃ r, exec (.dmaReadRegister .w32 0x1F801574) s = .next r ∧ r.result = .word 0x01000000 :=
  ⟨rfl, rfl, _, rfl, by decide⟩

/-- Every slot that names a channel reaches the DMA handler in the assembled state, at every offset. -/
theorem witness_ChannelRegisters : assembled.Live ∧ channelOfSlot 5 = some 12 ∧ channelOfSlot 15 = some 7 ∧
    (∀ dir ∈ [Dir.read, .write], ∀ off ∈ [(0x0 : BitVec 4), 0x4, 0x6, 0x8, 0xC], ∀ slot ∈ [(5 : BitVec 4), 8],
      lookup .S dir (channelAddr slot off) assembled = .handler .dma (channelAddr slot off)) ∧
    (∀ dir ∈ [Dir.read, .write], ∀ off ∈ [(0x6 : BitVec 4), 0x8, 0xC],
      lookup .S dir (channelAddr 15 off) assembled = .handler .dma (channelAddr 15 off)) := by decide

theorem witness_ChannelRegisterReads_inv : Machine.Inv busy ∧ busy.Live := ⟨busy_inv, rfl⟩

theorem witness_ChannelRegisterCommands :
    let controllers : List Word := [0x1F8010F0, 0x1F8010F4, 0x1F801570, 0x1F801574, 0x1F801578, 0x1F80157C]
    let ok := fun (a : Word) (off : BitVec 4) =>
      a ∉ controllers ∧ channelOfSlot (a.extractLsb' 4 4) = some 9 ∧ a.extractLsb' 0 4 = off
    assembled.Live ∧ ok 0x1F801520 0x0 ∧ ok 0x1F801524 0x4 ∧ ok 0x1F801526 0x6 ∧ ok 0x1F801528 0x8 ∧ ok 0xFFFFFF2C 0xC :=
  ⟨rfl, by decide, by decide, by decide, by decide, by decide⟩

theorem witness_DmaRegisterDecodeFaults :
    let controllers : List Word := [0x1F8010F0, 0x1F8010F4, 0x1F801570, 0x1F801574, 0x1F801578, 0x1F80157C]
    assembled.Live ∧ ((0x1F80157C : Word) ∈ controllers ∧ Width.w64 ≠ .w32) ∧
    ((0x1F801560 : Word) ∉ controllers ∧ (0x1F801560 : Word).extractLsb' 4 4 = 6) ∧
    ((0x1F80107C : Word) ∉ controllers ∧ (0x1F80107C : Word).extractLsb' 4 4 = 7) ∧
    ((0x1F801526 : Word) ∉ controllers ∧ (0x1F801526 : Word).extractLsb' 4 4 = 2 ∧
      ((0x1F801526 : Word).extractLsb' 0 4, Width.w32) ∉
        [((0x0 : BitVec 4), Width.w32), (0x4, .w32), (0x6, .w16), (0x8, .w32), (0xC, .w32)]) := by decide

theorem witness_ResetEffect : assembled.Live ∧ ∃ t, exec .dmaReset assembled = .next t ∧ t.dpcr1 = 0x07654321 :=
  ⟨rfl, _, rfl, rfl⟩

/-! ### Transfers -/

/-- One channel alone is eligible: the channels are listed. -/
theorem onlyEligible_of_all {c : Fin 13} {s : State}
    (h : (List.finRange 13).all (fun c' => s.eligible c' == decide (c' = c)) = true) : OnlyEligible c s :=
  fun c' => by simpa using List.all_eq_true.1 h c' (List.mem_finRange c')

theorem witness_RunWithNoEligibleChannel :
    let s := { withChannel assembled 9 0x10 2 0 false with dpcr1 := 0x07654321 }
    s.Live ∧ ∀ c, (s.chan c).control.getLsbD 24 = false ∨ s.enableBit c = false := by decide

theorem witness_StreamingStepCountsDown :
    let s := withChannel assembled 4 0 2 0 false
    s.Live ∧ OnlyEligible 4 s ∧ s.kind 4 = .streaming ∧ 2 ≤ (s.chan 4).count.toNat :=
  ⟨rfl, onlyEligible_of_all (by decide), rfl, by decide⟩

theorem witness_EndOfTransfer :
    (let s := withChannel assembled 7 0 0 0 false
     s.Live ∧ OnlyEligible 7 s ∧ EndsNow 7 s) ∧
    (let s := withChannel assembled 4 0 1 0 false
     s.Live ∧ OnlyEligible 4 s ∧ EndsNow 4 s) ∧
    (let s := withChannel assembled 9 0 0 0 true
     s.Live ∧ OnlyEligible 9 s ∧ EndsNow 9 s) ∧
    (let s := withChannel assembled 10 0 0 0 true
     s.Live ∧ OnlyEligible 10 s ∧ EndsNow 10 s) :=
  ⟨⟨rfl, onlyEligible_of_all (by decide), .inl ⟨rfl, by decide⟩⟩,
    ⟨rfl, onlyEligible_of_all (by decide), .inl ⟨rfl, by decide⟩⟩,
    ⟨rfl, onlyEligible_of_all (by decide), .inr ⟨.inl rfl, rfl, rfl⟩⟩,
    ⟨rfl, onlyEligible_of_all (by decide), .inr ⟨.inr rfl, rfl, rfl⟩⟩⟩

theorem witness_PlainControllerRegisters_end :
    let s := withChannel assembled 9 0 0 0 true
    OnlyEligible 9 s ∧ EndsNow 9 s := ⟨onlyEligible_of_all (by decide), .inr ⟨.inl rfl, rfl, rfl⟩⟩

theorem witness_TwoEndsInOneRun :
    let s := withChannel (withChannel assembled 4 0 1 0 false) 9 0 0 0 true
    s.Live ∧ (4 : Fin 13) < 9 ∧ (∀ c, s.eligible c = decide (c = 4 ∨ c = 9)) ∧ EndsNow 4 s ∧ EndsNow 9 s :=
  ⟨rfl, by decide, by decide, .inl ⟨rfl, by decide⟩, .inr ⟨.inl rfl, rfl, rfl⟩⟩

/-- The tag of L1-4 in IOP RAM, and its channel. -/
def tagged : State := withChannel (withIopRam 0x2000 [0x00000010, 0x00000002, 0x0000AAAA, 0x0000BBBB]) 9 0 0 0x2000 false

theorem room_of_unbounded {s : State} (side : FifoSide) (n : Nat) (h : s.params.fifoDepth = none) : s.Room side n :=
  fun k hk => by rw [h] at hk; cases hk

theorem witness_OutboundTagFetch : tagged.Live ∧ OnlyEligible 9 tagged ∧ tagged.kind 9 = .outbound ∧
    (tagged.chan 9).count = 0 ∧ (tagged.chan 9).endTransfer = false ∧ tagged.Room .side0 2 ∧
    ∃ t, ReadsWords (tagged.chan 9).tag [0x10, 2, 0xAAAA, 0xBBBB] tagged t :=
  ⟨rfl, onlyEligible_of_all (by decide), rfl, rfl, rfl, room_of_unbounded _ _ rfl,
    _, _, ⟨rfl, by decide, rfl⟩, _, ⟨rfl, by decide, rfl⟩, _, ⟨rfl, by decide, rfl⟩, _, ⟨rfl, by decide, rfl⟩, rfl⟩

theorem witness_OutboundTagFetch_raises : tagAtSlotSix.Live ∧ LowestEligible 9 tagAtSlotSix ∧
    tagAtSlotSix.kind 9 = .outbound ∧ (tagAtSlotSix.chan 9).count = 0 ∧ (tagAtSlotSix.chan 9).endTransfer = false ∧
    tagAtSlotSix.Room .side0 2 ∧ [(0 : Word), 0].length < 4 ∧
    ∃ u t r, ReadsWords (tagAtSlotSix.chan 9).tag [0, 0] tagAtSlotSix u ∧
      exec (.readWord .S ((tagAtSlotSix.chan 9).tag + BitVec.ofNat 32 (4 * [(0 : Word), 0].length))) u = .next t ∧
      t.fault = some r :=
  ⟨rfl, ⟨by decide, by decide⟩, rfl, rfl, rfl, room_of_unbounded _ _ rfl, by decide,
    _, _, _, ⟨_, ⟨rfl, by decide, rfl⟩, _, ⟨rfl, by decide, rfl⟩, rfl⟩, rfl, rfl⟩

/-- C9: one free slot is no room for two words; and a misaligned tag. -/
theorem witness_OutboundTagFetch_stops :
    (let s := withDepth (withFifo0 tagged [1, 2]) 3
     s.Live ∧ OnlyEligible 9 s ∧ s.kind 9 = .outbound ∧ (s.chan 9).count = 0 ∧ (s.chan 9).endTransfer = false ∧
       ¬ s.Room .side0 2) ∧
    (let s := withChannel assembled 9 0 0 0x2002 false
     s.Live ∧ OnlyEligible 9 s ∧ s.kind 9 = .outbound ∧ (s.chan 9).count = 0 ∧ (s.chan 9).endTransfer = false ∧
       s.Room .side0 2 ∧ (s.chan 9).tag.toNat % 4 ≠ 0) :=
  ⟨⟨rfl, onlyEligible_of_all (by decide), rfl, rfl, rfl, fun h => absurd (h 3 rfl) (by decide)⟩,
    ⟨rfl, onlyEligible_of_all (by decide), rfl, rfl, rfl, room_of_unbounded _ _ rfl, by decide⟩⟩

/-- C5, C7 and C8. -/
theorem witness_OutboundDataWord :
    (let s := withChannel (withIopRam 0x10 [0xCAFEF00D]) 9 0x10 2 0 false
     s.Live ∧ OnlyEligible 9 s ∧ s.kind 9 = .outbound ∧ (s.chan 9).count ≠ 0 ∧ s.Room .side0 1 ∧
       ∃ t, ReadsWord (s.chan 9).base 0xCAFEF00D s t) ∧
    (let s := withChannel assembled 9 0x12 1 0 false
     s.Live ∧ OnlyEligible 9 s ∧ s.kind 9 = .outbound ∧ (s.chan 9).count ≠ 0 ∧ s.Room .side0 1 ∧
       (s.chan 9).base.toNat % 4 ≠ 0) ∧
    (let s := withDepth (withFifo0 (withChannel assembled 9 0x10 3 0 false) [1, 2]) 2
     s.Live ∧ OnlyEligible 9 s ∧ s.kind 9 = .outbound ∧ (s.chan 9).count ≠ 0 ∧ ¬ s.Room .side0 1) :=
  ⟨⟨rfl, onlyEligible_of_all (by decide), rfl, by decide, room_of_unbounded _ _ rfl, _, rfl, by decide, rfl⟩,
    ⟨rfl, onlyEligible_of_all (by decide), rfl, by decide, room_of_unbounded _ _ rfl, by decide⟩,
    ⟨rfl, onlyEligible_of_all (by decide), rfl, by decide, fun h => absurd (h 2 rfl) (by decide)⟩⟩

/-- A read of slot 6 through the DMA window: the base of 24 bits reaches it through a window in the low 16 MiB. -/
theorem witness_OutboundDataWord_raises :
    let s := withChannel { assembled with asS := { spaceS with readHandlers := [⟨0x801500, 0x801580, .dma⟩] } }
      9 0x801560 1 0 false
    s.Live ∧ LowestEligible 9 s ∧ s.kind 9 = .outbound ∧ (s.chan 9).count ≠ 0 ∧ s.Room .side0 1 ∧
    ∃ t r, exec (.readWord .S (s.chan 9).base) s = .next t ∧ t.fault = some r :=
  ⟨rfl, ⟨by decide, by decide⟩, rfl, by decide, room_of_unbounded _ _ rfl, _, _, rfl, rfl⟩

/-- L1-5 and C11. -/
theorem witness_InboundTagFetch :
    (let s := withFifo1 (withChannel assembled 10 0 0 0 false) [0x1000, 3, 0, 0, 0x77]
     s.Live ∧ OnlyEligible 10 s ∧ s.kind 10 = .inbound ∧ (s.chan 10).count = 0 ∧ (s.chan 10).endTransfer = false ∧
       s.sif.fifo1 = 0x1000 :: 3 :: 0 :: 0 :: [0x77]) ∧
    (let s := withFifo1 (withChannel assembled 10 0 0 0 false) [1, 2, 3]
     s.Live ∧ OnlyEligible 10 s ∧ s.kind 10 = .inbound ∧ (s.chan 10).count = 0 ∧ (s.chan 10).endTransfer = false ∧
       s.sif.fifo1.length < 4) :=
  ⟨⟨rfl, onlyEligible_of_all (by decide), rfl, rfl, rfl, rfl⟩,
    ⟨rfl, onlyEligible_of_all (by decide), rfl, rfl, rfl, by decide⟩⟩

/-- C12, C13, and a misaligned base. -/
theorem witness_InboundDataWord :
    (let s := withChannel assembled 10 0x1000 2 0 false
     s.Live ∧ OnlyEligible 10 s ∧ s.kind 10 = .inbound ∧ (s.chan 10).count ≠ 0 ∧ s.sif.fifo1 = []) ∧
    (let s := withFifo1 (withChannel assembled 10 0x1002 2 0 false) [9]
     s.Live ∧ OnlyEligible 10 s ∧ s.kind 10 = .inbound ∧ (s.chan 10).count ≠ 0 ∧ s.sif.fifo1 = 9 :: [] ∧
       (s.chan 10).base.toNat % 4 ≠ 0) ∧
    (let s := withFifo1 (withChannel assembled 10 0x1000 3 0 false) [0x55]
     s.Live ∧ OnlyEligible 10 s ∧ s.kind 10 = .inbound ∧ (s.chan 10).count ≠ 0 ∧ s.sif.fifo1 = 0x55 :: [] ∧
       (∀ pa, lookup .S .write (s.chan 10).base s ≠ .handler .dma pa) ∧
       ∃ t, exec (.writeWord .S (s.chan 10).base 0x55) { s with sif := { s.sif with fifo1 := [] } } = .next t ∧ t.Live) := by
  refine ⟨⟨rfl, onlyEligible_of_all (by decide), rfl, by decide, rfl⟩,
    ⟨rfl, onlyEligible_of_all (by decide), rfl, by decide, rfl, by decide⟩,
    ⟨rfl, onlyEligible_of_all (by decide), rfl, by decide, rfl, fun pa h => ?_, _, rfl, rfl⟩⟩
  have e : lookup .S .write 0x1000 assembled = .fast .iopRam 0x1000 .rw := by decide
  exact absurd (e.symm.trans h) (by simp)

/-- An inbound word that lands in MADR of channel 9, reached by a window in the low 16 MiB. -/
theorem witness_InboundDataWord_own_registers :
    let s := withFifo1 (withChannel { assembled with
      asS := { spaceS with writeHandlers := [⟨0x801500, 0x801580, .dma⟩] } } 10 0x801520 2 0 false) [0x55]
    s.Live ∧ OnlyEligible 10 s ∧ s.kind 10 = .inbound ∧ (s.chan 10).count ≠ 0 ∧ s.sif.fifo1 = 0x55 :: [] ∧
    lookup .S .write (s.chan 10).base s = .handler .dma 0x801520 ∧
    ∃ t, exec (.writeWord .S (s.chan 10).base 0x55) { s with sif := { s.sif with fifo1 := [] } } = .next t ∧
      t.Live ∧ (t.chan 9).base = 0x55 ∧ ∀ c', 10 < c' → t.eligible c' = false :=
  ⟨rfl, onlyEligible_of_all (by decide), rfl, by decide, rfl, by decide, _, rfl, rfl, by decide, by decide⟩

/-- An inbound word for slot 6, which names no channel. -/
theorem witness_InboundDataWord_raises :
    let s := withFifo1 (withChannel { assembled with
      asS := { spaceS with writeHandlers := [⟨0x801500, 0x801580, .dma⟩] } } 10 0x801560 2 0 false) [0x55]
    s.Live ∧ LowestEligible 10 s ∧ s.kind 10 = .inbound ∧ (s.chan 10).count ≠ 0 ∧ s.sif.fifo1 = 0x55 :: [] ∧
    ∃ t r, exec (.writeWord .S (s.chan 10).base 0x55) { s with sif := { s.sif with fifo1 := [] } } = .next t ∧
      t.fault = some r :=
  ⟨rfl, ⟨by decide, by decide⟩, rfl, by decide, rfl, _, _, rfl, rfl⟩

/-- Channel 3 is the first of two eligible channels. -/
theorem witness_UnimplementedChannelIsFatal :
    let s := withChannel (withChannel assembled 3 0 0 0 false) 4 0 5 0 false
    s.Live ∧ LowestEligible 3 s ∧ s.eligible 4 = true ∧ s.kind 3 = .unimplemented :=
  ⟨rfl, ⟨by decide, by decide⟩, by decide, rfl⟩

theorem witness_StreamingEndsOnTime :
    (let s := withChannel assembled 4 0 0 0 false
     s.Live ∧ OnlyEligible 4 s ∧ s.kind 4 = .streaming ∧ (s.chan 4).count.toNat = 0) ∧
    (let s := withChannel assembled 7 0 0xFFFF 0 false
     s.Live ∧ OnlyEligible 7 s ∧ s.kind 7 = .streaming ∧ (s.chan 7).count.toNat = 0xFFFF) :=
  ⟨⟨rfl, onlyEligible_of_all (by decide), rfl, rfl⟩, ⟨rfl, onlyEligible_of_all (by decide), rfl, rfl⟩⟩

/-- A chain of two tags: one with no data that does not end it, one with four words and bit 31. -/
def chain : List Link := [⟨0, 0, 5, 6, []⟩, ⟨0x80002020, 2, 0xAAAA, 0xBBBB, [0xD0, 0xD1, 0xD2, 0xD3]⟩]

/-- The chain in IOP RAM at 0x2000, and its channel. -/
def chained : State :=
  withChannel (withIopRam 0x2000 [0, 0, 5, 6, 0x80002020, 2, 0xAAAA, 0xBBBB, 0xD0, 0xD1, 0xD2, 0xD3]) 9 0 0 0x2000 false

theorem fastWord_chained (a w : Word) (off : Nat) (ha : a.toNat % 4 = 0)
    (hl : lookup .S .read a chained = .fast .iopRam off .rw) (hw : chained.wordAt .iopRam off = w) : FastWord a w chained :=
  ⟨ha, .iopRam, off, .rw, hl, hw⟩

theorem witness_OutboundChainEndsOnTime : chained.Live ∧ OnlyEligible 9 chained ∧ chained.kind 9 = .outbound ∧
    chained.params.fifoDepth = none ∧ (chained.chan 9).count = 0 ∧ (chained.chan 9).endTransfer = false ∧
    LinksAt (chained.chan 9).tag chain chained ∧ ChainEnds chain ∧ ∃ final, chain.getLast? = some final := by
  refine ⟨rfl, onlyEligible_of_all (by decide), rfl, rfl, rfl, rfl,
    ⟨⟨?_, ?_, ?_, ?_, ?_, ?_⟩, ⟨?_, ?_, ?_, ?_, ?_, ?_⟩, trivial⟩, ⟨rfl, rfl⟩, _, rfl⟩
  · exact fastWord_chained _ _ 0x2000 (by decide) (by decide) (by decide)
  · exact fastWord_chained _ _ 0x2004 (by decide) (by decide) (by decide)
  · exact fastWord_chained _ _ 0x2008 (by decide) (by decide) (by decide)
  · exact fastWord_chained _ _ 0x200C (by decide) (by decide) (by decide)
  · decide
  · exact fun i h => absurd h (Nat.not_lt_zero i)
  · exact fastWord_chained _ _ 0x2010 (by decide) (by decide) (by decide)
  · exact fastWord_chained _ _ 0x2014 (by decide) (by decide) (by decide)
  · exact fastWord_chained _ _ 0x2018 (by decide) (by decide) (by decide)
  · exact fastWord_chained _ _ 0x201C (by decide) (by decide) (by decide)
  · decide
  · intro i h
    match i, h with
    | 0, _ => exact fastWord_chained _ 0xD0 0x2020 (by decide) (by decide) (by decide)
    | 1, _ => exact fastWord_chained _ 0xD1 0x2024 (by decide) (by decide) (by decide)
    | 2, _ => exact fastWord_chained _ 0xD2 0x2028 (by decide) (by decide) (by decide)
    | 3, _ => exact fastWord_chained _ 0xD3 0x202C (by decide) (by decide) (by decide)

/-- The lookup found a page. -/
def onPage : Target → Bool
  | .fast _ _ _ => true
  | _ => false

/-- An inbound chain of two tags: one word into IOP RAM, then two whose last is the last word of IOP RAM. -/
def inChain : List Link := [⟨0x1000, 1, 0, 0, [0xB0]⟩, ⟨0x801FFFF8, 2, 0, 0, [0xC0, 0xC1]⟩]

/-- The inbound chain queued, with a word after it, and its channel. -/
def inChained : State := withFifo1 (withChannel assembled 10 0 0 0 false) (inWords inChain ++ [0x77])

theorem witness_InboundChainLandsInMemory : inChained.Live ∧ OnlyEligible 10 inChained ∧ inChained.kind 10 = .inbound ∧
    (inChained.chan 10).count = 0 ∧ (inChained.chan 10).endTransfer = false ∧
    inChained.sif.fifo1 = inWords inChain ++ [0x77] ∧ ChainEnds inChain ∧ (∃ final, inChain.getLast? = some final) ∧
    (∀ l ∈ inChain, l.data.length = l.inCount) ∧
    (∀ l ∈ inChain, ∀ i pa, i < l.data.length → lookup .S .write (wordsPast l.w0 i) inChained ≠ .handler .dma pa) ∧
    ∃ v, execAll (inWrites inChain) inChained = some v ∧ v.Live := by
  refine ⟨rfl, onlyEligible_of_all (by decide), rfl, rfl, rfl, rfl, ⟨rfl, rfl⟩, ⟨_, rfl⟩, by decide, ?_, _, rfl, rfl⟩
  intro l hl i pa hi h
  have fast : ∀ l ∈ inChain, ∀ i < l.data.length, onPage (lookup .S .write (wordsPast l.w0 i) inChained) = true := by
    decide
  have := fast l hl i hi
  rw [h] at this
  cases this

/-- The last clause: one tag whose words end at the last word of IOP RAM. -/
theorem witness_InboundChainLandsInMemory_one_tag :
    let final : Link := ⟨0x801FFFF8, 2, 0, 0, [0xC0, 0xC1]⟩
    let s := withFifo1 (withChannel assembled 10 0 0 0 false) (inWords [final] ++ [0x77])
    ∀ i, i < final.data.length →
      lookup .S .write (wordsPast final.w0 i) s = .fast .iopRam (0x1FFFF8 + 4 * i) .rw := by decide

/-! ### SIF -/

theorem witness_FifoPushes :
    (let s := withDepth (withFifo1 (withFifo0 assembled [1]) [1]) 3
     s.Live ∧ s.params.fifoDepth ≠ some s.sif.fifo0.length ∧ s.Room .side1 1 ∧ s.Room .side1 2) ∧
    (let s := withDepth (withFifo1 (withFifo0 assembled [1, 2]) [1]) 2
     s.Live ∧ s.params.fifoDepth = some s.sif.fifo0.length ∧ s.Room .side1 1 ∧ ¬ s.Room .side1 2) ∧
    (let s := withDepth (withFifo1 assembled [1, 2]) 2
     s.Live ∧ ¬ s.Room .side1 1) := by
  refine ⟨⟨rfl, by decide, fun k hk => ?_, fun k hk => ?_⟩, ⟨rfl, by decide, fun k hk => ?_, fun h => ?_⟩, rfl, fun h => ?_⟩
  · cases hk; decide
  · cases hk; decide
  · cases hk; decide
  · exact absurd (h 2 rfl) (by decide)
  · exact absurd (h 2 rfl) (by decide)

theorem witness_FifoPopsAndSizes :
    (let s := withFifo1 (withFifo0 assembled [7]) [7]
     s.Live ∧ s.sif.fifo0 = 7 :: [] ∧ s.sif.fifo1 = 7 :: []) ∧
    assembled.Live ∧ assembled.sif.fifo0 = [] ∧ assembled.sif.fifo1 = [] := by decide

theorem witness_FifoOrderLaw :
    let is : List Instr := [.writeSide1FifoWide 0x0000000300001000, .writeSide0Fifo 9, .readSide1Fifo]
    assembled.Live ∧ assembled.fifo .side1 = [] ∧ (∀ n, Instr.dmaRun n ∉ is) ∧
    ∃ t, poppedWords .side1 is assembled = some ([0x1000], t) ∧ t.Live ∧ t.fifo .side1 = [3] :=
  ⟨rfl, rfl, by simp, _, rfl, rfl, rfl⟩

theorem witness_SifRegisterReads : assembled.Live ∧
    SifReg.all.all (fun r => decide (lookup .P .read (SifReg.addr .P r) assembled = .handler .sif (SifReg.addr .P r))) = true ∧
    SifReg.all.all (fun r => decide (lookup .S .read (SifReg.addr .S r) assembled = .handler .sif (SifReg.addr .S r))) = true ∧
    SifReg.all.map (SifReg.addr .P) = [0x1000F200, 0x1000F210, 0x1000F220, 0x1000F230, 0x1000F240, 0x1000F260] ∧
    SifReg.all.map (SifReg.addr .S) = [0x1D000000, 0x1D000010, 0x1D000020, 0x1D000030, 0x1D000040, 0x1D000060] := by decide

theorem witness_SifRegisterWrites : assembled.Live ∧
    SifReg.all.all (fun r => decide (lookup .P .write (SifReg.addr .P r) assembled = .handler .sif (SifReg.addr .P r))) = true ∧
    SifReg.all.all (fun r => decide (lookup .S .write (SifReg.addr .S r) assembled = .handler .sif (SifReg.addr .S r))) = true := by
  decide

theorem witness_SifWindowAccesses : assembled.Live ∧ ∀ dir ∈ [Dir.read, .write],
    (lookup .P dir 0xB000F200 assembled = .handler .sif 0x1000F200 ∧ (0x1000F200 : Word) = SifReg.addr .P .mscom ∧
      (0xB000F200 : Word).toNat % 8 = 0) ∧
    (lookup .S dir 0x1D000068 assembled = .handler .sif 0x1D000068 ∧ (0x1D000068 : Word).toNat % 8 = 0 ∧
      ∀ r ∈ SifReg.all, (0x1D000068 : Word) ≠ SifReg.addr .S r) := by decide

/-! ### `Run` as a whole, and neighbouring pages -/

/-- Three eligible channels: a step, an end, and a stall. -/
theorem witness_RunStepsChannelsInOrder :
    let s := withChannel (withChannel (withChannel assembled 4 0 5 0 false) 7 0 1 0 false) 10 0x1000 2 0 false
    s.Live ∧ (List.finRange 13).filter s.eligible = [4, 7, 10] := by decide

/-- 95_test_vectors.md A27: four mirrors of IOP RAM in one registration; a byte written in the second reads in the
first. -/
theorem test_registerRegion_mirrors_the_store :
    (execAll [.registerRegion .S 0 0x00800000 0x001FFFFF .iopRam, .writeByte .S 0x00200005 7, .readByte .S 0x5]
      State.reset).map (fun t => (t.fault, t.result)) = some (none, .byte 7) := by decide +kernel

/-- A window of two mirrors of the scratch store: two pages inside a mirror, and the pages around its end. -/
theorem witness_NeighbouringPagesAreContiguousUnderTheMask :
    State.reset.Live ∧ (∃ t, exec (.registerRegion .P 0 0x8000 0x3FFF .scratch) State.reset = .next t ∧ t.Live) ∧
    (0x1000 % 4096 = 0 ∧ (0x1000 ^^^ 0x2000) &&& (0x3FFF : Word).toNat = 0x1000 ^^^ 0x2000) ∧
    (0x3000 % 4096 = 0 ∧ (0x3000 ^^^ 0x4000) &&& (0x3FFF : Word).toNat ≠ 0x3000 ^^^ 0x4000) ∧ 0x3000 + 4096 < 0x8000 ∧
    (0x3FFF : Word).toNat = 2 ^ 14 - 1 :=
  ⟨rfl, ⟨_, rfl, rfl⟩, by decide, by decide, by decide, by decide⟩

/-- Commands that follow a registration: one that maps other pages, and one that would map its pages again. -/
theorem witness_NeighbouringPagesAreContiguousUnderTheMask_kept :
    ∃ u, execAll [.registerRegion .P 0 0x8000 0x3FFF .scratch, .registerRegion .P 0x8000 0xC000 0x3FFF .scratch,
      .registerRegion .P 0x1000 0x2000 0x3FFF .scratch] State.reset = some u ∧ ¬ u.Live ∧
      (u.space .P).pageEntry 0x8000 ≠ none := ⟨_, rfl, by decide, by decide⟩

end Sys2Proof.Tests
end

section
/-! ## What every command keeps (10_state.md R33, R34, R60, R65, R66), and the invariant of the block -/

namespace Sys2Proof.Machine

/-! ### The bodies of commands -/

/-- The three commands that change an address space (40_address_space.md R200, R201). -/
def isRegistration : Instr → Bool
  | .registerRegion _ _ _ _ _ | .registerReadHandler _ _ _ _ | .registerWriteHandler _ _ _ _ => true
  | _ => false

/-- The bodies that commands other than the registrations have: what holds of all of them is proved by cases on these,
and not on the instructions. -/
inductive PlainBody : (State → Reply Result) → Prop
  | read (d : Domain) (w : Width) (va : Word) : PlainBody (readCommand d w va)
  | write (d : Domain) (w : Width) (va : Word) (v : BitVec 64) : PlainBody (writeCommand d w va v)
  | readQuad (d : Domain) (va : Word) : PlainBody (readQuad d va)
  | writeQuad (d : Domain) (va : Word) (v : BitVec 128) : PlainBody (writeQuad d va v)
  | query (f : State → Result) : PlainBody fun s => .done (f s) s
  | reset : PlainBody fun s => .done .none (resetDma s)
  | run : PlainBody fun s => (runChannels allChannels s).noResult
  | dmaRead (w : Width) (a : Word) : PlainBody fun s => (dmaRead w a s).andThen fun v s => .done (resultOf w v) s
  | dmaWrite (w : Width) (a : Word) (data : BitVec 64) : PlainBody fun s => (dmaWrite w a data s).noResult
  | pushSide0 (w : Word) : PlainBody fun s => (pushSide0 w s).noResult
  | pushSide1 (ws : List Word) : PlainBody fun s => (pushSide1 ws s).noResult
  | pop (side : FifoSide) : PlainBody fun s => (popSide side s).andThen fun w s => .done (.word w) s
  | sifWrite (side : Domain) (r : SifReg) (v : Word) : PlainBody (sifWriteCommand side r v)

/-- Every command but a registration has one of these bodies. -/
theorem bodyOf_plain {i : Instr} (h : isRegistration i = false) : PlainBody (bodyOf i) := by
  cases i
  case registerRegion | registerReadHandler | registerWriteHandler => cases h
  case readQuad => exact .readQuad ..
  case writeQuad => exact .writeQuad ..
  case translateVirtualAddress | validCodeRegion | getSide0FifoSize | getSide1FifoSize | sifReadRegister =>
    exact .query _
  case dmaReset => exact .reset
  case dmaRun => exact .run
  case dmaReadRegister => exact .dmaRead ..
  case dmaWriteRegister => exact .dmaWrite ..
  case writeSide0Fifo => exact .pushSide0 _
  case writeSide1FifoWord | writeSide1FifoWide => exact .pushSide1 _
  case readSide0Fifo | readSide1Fifo => exact .pop _
  case sifWriteMscom | sifWriteSmcom | sifWriteMsflag | sifWriteSmflag | sifWriteCtrl | sifWriteBd6 =>
    exact .sifWrite ..
  case writeByte | writeHalf | writeWord | writeDouble | stDpcr | stDicr | stDpcr2 | stDicr2 | stDmacen | stDmacinten
      | stMadr | stBcr | stBcrCount | stChcr | stTadr | stMscomP | stSmcomP | stMsflagP | stSmflagP | stCtrlP | stBd6P
      | stMscomS | stSmcomS | stMsflagS | stSmflagS | stCtrlS | stBd6S => exact .write ..
  all_goals exact .read ..

/-- A registration is that of a region, or that of a handler window in one direction. -/
theorem registration_cases {i : Instr} (h : isRegistration i = true) :
    (∃ d vstart vend mask st, i = .registerRegion d vstart vend mask st) ∨
    ∃ d dir lo hi h, bodyOf i = registerHandler d dir lo hi h := by
  cases i
  case registerRegion => exact .inl ⟨_, _, _, _, _, rfl⟩
  case registerReadHandler => exact .inr ⟨_, _, _, _, _, rfl⟩
  case registerWriteHandler => exact .inr ⟨_, _, _, _, _, rfl⟩
  all_goals cases h

/-! ### What a registration does -/

/-- `RegisterRegion` refuses and changes nothing, or finds every page of the window free and inside the store, and adds
the region (40_address_space.md R200). -/
theorem registerRegion_cases (d : Domain) (vstart vend : Nat) (mask : Word) (st : Store) (s : State) :
    (∃ c, registerRegion d vstart vend mask st s = .raised c s) ∨
    (vstart % Config.pageSize = 0 ∧ vend % Config.pageSize = 0 ∧
      (∀ p ∈ pagesOf vstart vend, badPage (s.space d) mask st p = false) ∧
      registerRegion d vstart vend mask st s =
        .done .none (s.setSpace d ((s.space d).addRegion ⟨vstart, vend, mask, st⟩))) := by
  unfold registerRegion
  split
  · exact .inl ⟨_, rfl⟩
  · rename_i hbounds
    simp only [not_or, not_not] at hbounds
    split
    · exact .inl ⟨_, rfl⟩
    · rename_i hfree
      exact .inr ⟨hbounds.1, hbounds.2.1, fun p hp => by simpa using List.find?_eq_none.1 hfree p hp, rfl⟩

/-- A handler registration leaves the state, or adds one window to one list (40_address_space.md R201). -/
theorem registerHandler_cases (d : Domain) (dir : Dir) (lo hi : Nat) (h : Handler) (s : State) :
    (registerHandler d dir lo hi h s).state = s ∨
    (registerHandler d dir lo hi h s).state = s.setSpace d ((s.space d).addHandler dir ⟨lo, hi, h⟩) := by
  unfold registerHandler
  split
  · exact .inl rfl
  · split
    · exact .inl rfl
    · exact .inr rfl

/-! ### What every command keeps -/

theorem setSif_keeps (s : State) (f : Sif) : Keeps s (s.setSif f) := ⟨rfl, rfl, rfl, rfl, rfl, [], by simp⟩

theorem resetDma_keeps (s : State) : Keeps s (resetDma s) := ⟨rfl, rfl, rfl, rfl, rfl, [], by simp [resetDma]⟩

theorem quadCheck_state (d : Domain) (va : Word) (s : State) : (quadCheck d va s).state = s := by
  cases d
  · simp only [quadCheck]
    split <;> rfl
  · rfl

theorem pushSide0_keeps (w : Word) (s : State) : Keeps s (pushSide0 w s).state := by
  unfold pushSide0
  split
  · exact .refl s
  · exact append_keeps ..

theorem pushSide1_keeps (ws : List Word) (s : State) : Keeps s (pushSide1 ws s).state := by
  unfold pushSide1
  split
  · exact append_keeps ..
  · exact .refl s

theorem popSide_keeps (side : FifoSide) (s : State) : Keeps s (popSide side s).state := by
  unfold popSide
  split
  · exact .refl s
  · exact setFifo_keeps ..

theorem memWrite_keeps (d : Domain) (w : Width) (va : Word) (v : BitVec 64) (s : State) :
    Keeps s (memWrite d w va v s).state := (memWrite_writeFrame d w va v s).keeps

theorem quadCheck_keeps (d : Domain) (va : Word) (s : State) : Keeps s (quadCheck d va s).state := by
  rw [quadCheck_state]
  exact .refl s

theorem readQuad_keeps (d : Domain) (va : Word) (s : State) : Keeps s (readQuad d va s).state :=
  Reply.andThen_keeps Keeps.trans (quadCheck_keeps ..) fun _ _ =>
  Reply.andThen_keeps Keeps.trans (memRead_keeps ..) fun _ _ =>
  Reply.andThen_keeps Keeps.trans (memRead_keeps ..) fun _ _ =>
  Reply.andThen_keeps Keeps.trans (memRead_keeps ..) fun _ _ =>
  Reply.andThen_keeps Keeps.trans (memRead_keeps ..) fun _ s => .refl s

theorem writeQuad_keeps (d : Domain) (va : Word) (v : BitVec 128) (s : State) : Keeps s (writeQuad d va v s).state :=
  Reply.andThen_keeps Keeps.trans (quadCheck_keeps ..) fun _ _ =>
  Reply.andThen_keeps Keeps.trans (memWrite_keeps ..) fun _ _ =>
  Reply.andThen_keeps Keeps.trans (memWrite_keeps ..) fun _ _ =>
  Reply.andThen_keeps Keeps.trans (memWrite_keeps ..) fun _ s => by
    rw [Reply.noResult_state]
    exact memWrite_keeps ..

/-- What a body other than a registration keeps. -/
theorem PlainBody.keeps {f : State → Reply Result} (h : PlainBody f) (s : State) : Keeps s (f s).state := by
  cases h with
  | read => exact (readCommand_readFrame ..).keeps
  | write => rw [writeCommand, Reply.noResult_state]; exact memWrite_keeps ..
  | readQuad => exact readQuad_keeps ..
  | writeQuad => exact writeQuad_keeps ..
  | query => exact .refl s
  | reset => exact resetDma_keeps s
  | run => rw [Reply.noResult_state]; exact runChannels_keeps ..
  | dmaRead => exact Reply.andThen_keeps Keeps.trans (dmaRead_readFrame ..).keeps fun _ t => .refl t
  | dmaWrite => rw [Reply.noResult_state]; exact (dmaWrite_writeFrame ..).keeps
  | pushSide0 => rw [Reply.noResult_state]; exact pushSide0_keeps ..
  | pushSide1 => rw [Reply.noResult_state]; exact pushSide1_keeps ..
  | pop => exact Reply.andThen_keeps Keeps.trans (popSide_keeps ..) fun _ t => .refl t
  | sifWrite => exact setSif_keeps ..

/-- What registrations and raises keep as well: the events already sent, the parameters and the port (10_state.md R65,
R66; log 1). -/
structure KeepsRecords (s t : State) : Prop where
  out : ∃ es, t.out = s.out ++ es
  params : t.params = s.params
  port : t.port = s.port

theorem KeepsRecords.of_out {s t : State} (ho : t.out = s.out) (hp : t.params = s.params) (hq : t.port = s.port) :
    KeepsRecords s t := ⟨⟨[], by simp [ho]⟩, hp, hq⟩

theorem KeepsRecords.refl (s : State) : KeepsRecords s s := .of_out rfl rfl rfl

theorem KeepsRecords.trans {s t u : State} (h : KeepsRecords s t) (k : KeepsRecords t u) : KeepsRecords s u := by
  obtain ⟨es, he⟩ := h.out
  obtain ⟨fs, hf⟩ := k.out
  exact ⟨⟨es ++ fs, by rw [hf, he, List.append_assoc]⟩, k.params.trans h.params, k.port.trans h.port⟩

theorem Keeps.records {s t : State} (h : Keeps s t) : KeepsRecords s t := ⟨h.out, h.params, h.port⟩

theorem setSpace_records (s : State) (d : Domain) (as : AddrSpace) : KeepsRecords s (s.setSpace d as) := by
  cases d <;> exact .of_out rfl rfl rfl

theorem raise_records (c : Cause) (who : Issued) (s : State) : KeepsRecords s (raise c who s) := by
  rw [raise_frame]
  exact .of_out rfl rfl rfl

theorem bodyOf_records (i : Instr) (s : State) : KeepsRecords s (bodyOf i s).state := by
  cases hr : isRegistration i with
  | false => exact ((bodyOf_plain hr).keeps s).records
  | true =>
    rcases registration_cases hr with ⟨d, vstart, vend, mask, st, rfl⟩ | ⟨d, dir, lo, hi, h, hb⟩
    · rcases registerRegion_cases d vstart.toNat vend mask st s with ⟨c, e⟩ | ⟨-, -, -, e⟩
      · rw [bodyOf, e]; exact .refl s
      · rw [bodyOf, e]; exact setSpace_records ..
    · rw [hb]
      rcases registerHandler_cases d dir lo hi h s with e | e <;> rw [e]
      · exact .refl s
      · exact setSpace_records ..

/-- Every command keeps the events already sent, the parameters and the port. -/
theorem exec_records {i : Instr} {s t : State} (h : exec i s = .next t) : KeepsRecords s t :=
  exec_related h .refl (fun _ _ => .of_out rfl rfl rfl) (fun u c who => raise_records c who u) .trans (bodyOf_records i)

/-- Two states with the same address spaces. -/
def SameSpaces (s t : State) : Prop := ∀ d, t.space d = s.space d

theorem SameSpaces.trans {s t u : State} (h : SameSpaces s t) (k : SameSpaces t u) : SameSpaces s u :=
  fun d => (k d).trans (h d)

theorem raise_sameSpaces (c : Cause) (who : Issued) (s : State) : SameSpaces s (raise c who s) := by
  rw [raise_frame]
  exact fun d => by cases d <;> rfl

/-- Only the registrations change an address space (10_state.md R33, R34). -/
theorem exec_sameSpaces {i : Instr} {s t : State} (hi : isRegistration i = false) (h : exec i s = .next t) :
    SameSpaces s t :=
  exec_related h (fun _ _ => rfl) (fun u r d => u.setResult_space r d) (fun u c who => raise_sameSpaces c who u) .trans
    fun u => ((bodyOf_plain hi).keeps u).space

/-! ### The invariant -/

theorem emptySpace_good : AddrSpace.empty.Good :=
  ⟨by simp [AddrSpace.empty], .nil, by simp [AddrSpace.empty], .nil, by simp [AddrSpace.empty], .nil⟩

theorem reset_inv : Inv State.reset where
  space_good d := by cases d <;> exact emptySpace_good
  stores_good := reset_stores_good
  base_masked c := by simp [State.reset, State.chan, Channel.zero]
  no_seventh_flag := by simp [State.reset, State.latch, Latch.zero]
  fifo_fits _ _ hk := by cases hk

theorem resetDma_inv {s : State} (hi : Inv s) : Inv (resetDma s) where
  space_good d := by cases d; exacts [hi.space_good .P, hi.space_good .S]
  stores_good := hi.stores_good
  base_masked c := by simp [resetDma, State.chan, Channel.zero]
  no_seventh_flag := by simp [resetDma, State.latch, Latch.zero]
  fifo_fits side := by cases side; exacts [hi.fifo_fits .side0, hi.fifo_fits .side1]

/-- A FIFO within its depth and not full has room for a word. -/
theorem Inv.hasRoom_one {s : State} (hi : Inv s) {side : FifoSide}
    (hfull : s.params.fifoDepth ≠ some (s.fifo side).length) : s.hasRoom side 1 = true := by
  unfold State.hasRoom
  split
  · rfl
  · rename_i k hk
    have hle := hi.fifo_fits side k hk
    have hne : k ≠ (s.fifo side).length := fun e => hfull (e ▸ hk)
    exact decide_eq_true (by omega)

theorem pushSide0_inv {s : State} (hi : Inv s) (w : Word) : Inv (pushSide0 w s).state := by
  unfold pushSide0
  split
  · exact hi
  · rename_i hfull
    exact append_inv hi .side0 [w] (hi.hasRoom_one hfull)

theorem pushSide1_inv {s : State} (hi : Inv s) (ws : List Word) : Inv (pushSide1 ws s).state := by
  unfold pushSide1
  split
  · rename_i hroom
    exact append_inv hi .side1 ws hroom
  · exact hi

theorem popSide_inv {s : State} (hi : Inv s) (side : FifoSide) : Inv (popSide side s).state := by
  unfold popSide
  split
  · exact hi
  · rename_i hf
    exact setFifo_shorter_inv hi side _ (by simp [hf])

theorem readQuad_inv {s : State} (hi : Inv s) (d : Domain) (va : Word) : Inv (readQuad d va s).state :=
  Reply.andThen_inv (by rwa [quadCheck_state]) fun _ _ h =>
  Reply.andThen_inv (memRead_inv h ..) fun _ _ h =>
  Reply.andThen_inv (memRead_inv h ..) fun _ _ h =>
  Reply.andThen_inv (memRead_inv h ..) fun _ _ h =>
  Reply.andThen_inv (memRead_inv h ..) fun _ _ h => h

theorem writeQuad_inv {s : State} (hi : Inv s) (d : Domain) (va : Word) (v : BitVec 128) :
    Inv (writeQuad d va v s).state :=
  Reply.andThen_inv (by rwa [quadCheck_state]) fun _ _ h =>
  Reply.andThen_inv (memWrite_inv h ..) fun _ _ h =>
  Reply.andThen_inv (memWrite_inv h ..) fun _ _ h =>
  Reply.andThen_inv (memWrite_inv h ..) fun _ _ h => by
    rw [Reply.noResult_state]
    exact memWrite_inv h ..

/-- A body other than a registration keeps the invariant. -/
theorem PlainBody.inv {f : State → Reply Result} (h : PlainBody f) {s : State} (hi : Inv s) : Inv (f s).state := by
  cases h with
  | read => exact (readCommand_readFrame ..).inv hi
  | write => rw [writeCommand, Reply.noResult_state]; exact memWrite_inv hi ..
  | readQuad => exact readQuad_inv hi ..
  | writeQuad => exact writeQuad_inv hi ..
  | query => exact hi
  | reset => exact resetDma_inv hi
  | run => rw [Reply.noResult_state]; exact runChannels_inv _ hi
  | dmaRead => exact Reply.andThen_inv ((dmaRead_readFrame ..).inv hi) fun _ _ h => h
  | dmaWrite => rw [Reply.noResult_state]; exact dmaWrite_inv hi ..
  | pushSide0 => rw [Reply.noResult_state]; exact pushSide0_inv hi _
  | pushSide1 => rw [Reply.noResult_state]; exact pushSide1_inv hi _
  | pop => exact Reply.andThen_inv (popSide_inv hi _) fun _ _ h => h
  | sifWrite => exact sifWrite_inv hi ..

theorem setResult_inv {s : State} (hi : Inv s) (r : Result) : Inv (s.setResult r) :=
  hi.congr (fun d => by simp) rfl (fun _ => rfl) rfl rfl (fun side => by simp)

theorem takeItem_inv {s : State} (hi : Inv s) : Inv s.takeItem :=
  hi.congr (fun d => by cases d <;> rfl) rfl (fun _ => rfl) rfl rfl (fun side => by cases side <;> rfl)

/-- The end of a region that a command registers is an address or the end of the address space (30_encoding.md R141). -/
def RegionEndBounded (i : Instr) : Prop :=
  ∀ d vstart vend mask st, i = .registerRegion d vstart vend mask st → vend ≤ endOfAddressSpace

theorem bodyOf_inv {i : Instr} (hend : RegionEndBounded i) {s : State} (hi : Inv s) : Inv (bodyOf i s).state := by
  cases hr : isRegistration i with
  | false => exact (bodyOf_plain hr).inv hi
  | true =>
    rcases registration_cases hr with ⟨d, vstart, vend, mask, st, rfl⟩ | ⟨d, dir, lo, hi', h, hb⟩
    · exact registerRegion_inv hi d _ _ mask st (hend _ _ _ _ _ rfl)
    · rw [hb]
      exact registerHandler_inv hi ..

/-- A part that keeps the invariant makes a command that keeps it. -/
theorem runCommand_inv {who : Issued} {f : State → Reply Result} {s t : State} (hi : Inv s)
    (h : runCommand who f s = .next t) (hf : ∀ u, Inv u → Inv (f u).state) : Inv t := by
  have hbody := hf _ (setResult_inv hi .none)
  rcases runCommand_cases h with ⟨-, rfl⟩ | ⟨-, v, u, hu, rfl⟩ | ⟨-, c, u, hu, rfl⟩
  · exact hi
  · exact setResult_inv (by simpa [hu] using hbody) v
  · exact raise_inv c who (by simpa [hu] using hbody)

theorem exec_inv {i : Instr} {s t : State} (hi : Inv s) (hend : RegionEndBounded i) (h : exec i s = .next t) :
    Inv t := by
  rw [exec_eq] at h
  exact runCommand_inv hi h fun _ => bodyOf_inv hend

/-! ### A decoded region ends in the address space -/

theorem sifWriteInstr_regionEnd (side : Domain) (reg : SifReg) (v : Word) :
    RegionEndBounded (sifWriteInstr side reg v) := by
  rintro _ _ _ _ _ e
  cases reg <;> cases e

/-- The only region that `buildCommand` builds ends in the address space. -/
theorem buildCommand_regionEnd {sel : Selector} {fields : List Nat} {i : Instr}
    (hb : buildCommand sel fields = some i) : RegionEndBounded i := by
  unfold buildCommand at hb
  split at hb
  case h_1 =>
    simp only [Option.bind_eq_some_iff, requireThat, Option.ite_none_right_eq_some, Option.some.injEq,
      decide_eq_true_eq] at hb
    obtain ⟨_, -, _, -, hle, rfl⟩ := hb
    rintro _ _ _ _ _ ⟨⟩
    exact hle
  case h_28 =>
    simp only [Option.bind_eq_some_iff, Option.map_eq_some_iff] at hb
    obtain ⟨_, -, _, -, rfl⟩ := hb
    exact sifWriteInstr_regionEnd _ _ _
  all_goals
    rintro _ _ _ _ _ rfl
    simp [Option.bind_eq_some_iff, requireThat] at hb

theorem loadBus_regionEnd (r : BusReg) : RegionEndBounded r.load := by
  rintro _ _ _ _ _ e
  rcases r with r | ⟨d, r⟩
  · cases r <;> cases e
  · cases d <;> cases r <;> cases e

theorem storeBus_regionEnd (r : BusReg) (v : Word) : RegionEndBounded (r.store v) := by
  rintro _ _ _ _ _ e
  rcases r with r | ⟨d, r⟩
  · cases r <;> cases e
  · cases d <;> cases r <;> cases e

theorem loadChan_regionEnd (r : ChanReg) (slot : BitVec 4) : RegionEndBounded (loadChan r slot) := by
  rintro _ _ _ _ _ e
  cases r <;> cases e

theorem storeChan_regionEnd (r : ChanReg) (slot : BitVec 4) (v : Nat) : RegionEndBounded (storeChan r slot v) := by
  rintro _ _ _ _ _ e
  cases r <;> cases e

theorem decodeCommand_regionEnd {w : Nat} {i : Instr} (h : decodeCommand w = .ok i) : RegionEndBounded i := by
  unfold decodeCommand at h
  split at h
  · cases h
  · split at h
    · cases h
    · split at h
      · rename_i hb
        cases h
        exact buildCommand_regionEnd hb
      · cases h

theorem decodeBus_regionEnd {w : Nat} {i : Instr} (h : decodeBus w = .ok i) : RegionEndBounded i := by
  unfold decodeBus at h
  split at h
  · cases h
  · split_ifs at h <;> cases h
    · exact loadBus_regionEnd _
    · exact storeBus_regionEnd _ _

theorem decodeChannel_regionEnd {w : Nat} {i : Instr} (h : decodeChannel w = .ok i) : RegionEndBounded i := by
  unfold decodeChannel at h
  split at h
  · cases h
  · dsimp only at h
    split_ifs at h <;> cases h
    · exact loadChan_regionEnd _ _
    · exact storeChan_regionEnd _ _ _

/-- A decoded region ends in the address space. -/
theorem decode_regionEnd {item : PortItem} {i : Instr} (h : decode item = .ok i) : RegionEndBounded i := by
  unfold decode at h
  split at h
  · cases h
  · split at h
    · exact decodeCommand_regionEnd h
    · exact decodeBus_regionEnd h
    · exact decodeChannel_regionEnd h

/-! ### What a step does -/

/-- A step leaves the state, or takes an item and with it does nothing, runs a decoded command, or records an unassigned
selector (30_encoding.md R145). -/
theorem step_cases {s t : State} (h : step s = .next t) :
    t = s ∨ t = s.takeItem ∨ (∃ item i, decode item = .ok i ∧ exec i s.takeItem = .next t) ∨
    ∃ item sel, runCommand (.unassigned item) (.raised (.unknownCommand sel)) s.takeItem = .next t := by
  unfold step at h
  split at h
  · cases h
    exact .inl rfl
  · split at h
    · cases h
      exact .inr (.inl rfl)
    · rename_i hd
      exact .inr (.inr (.inl ⟨_, _, hd, h⟩))
    · exact .inr (.inr (.inr ⟨_, _, h⟩))
    · cases h

theorem step_inv {s t : State} (hi : Inv s) (h : step s = .next t) : Inv t := by
  have htake := takeItem_inv hi
  rcases step_cases h with rfl | rfl | ⟨item, i, hd, hx⟩ | ⟨item, sel, hr⟩
  · exact hi
  · exact htake
  · exact exec_inv htake (decode_regionEnd hd) hx
  · exact runCommand_inv htake hr fun _ hu => hu

/-! ### Faults -/

/-- A command of a live block records no fault but its own (10_state.md R60). -/
theorem exec_fault_command {i : Instr} {s t : State} {r : FaultRecord} (hs : s.Live) (h : exec i s = .next t)
    (hr : t.fault = some r) : r.command = .command i := by
  cases hf : bodyOf i (s.setResult .none) with
  | done v u =>
    have hu : u.fault = s.fault := by simpa [hf] using bodyOf_fault i (s.setResult .none)
    rw [exec_done hs hf] at h
    cases h
    rw [State.setResult_fault, hu, hs] at hr
    cases hr
  | raised c u =>
    rw [exec_raised hs hf] at h
    cases h
    cases hr
    rfl

end Sys2Proof.Machine

open Sys2Proof Sys2Proof.Machine

/-- Settles O6: each form of a step keeps the invariant, since a decoded region ends in the address space. -/
theorem invariantKeptByStep : Obligations.InvariantKeptByStep := by
  unfold Obligations.InvariantKeptByStep
  intro s t hi h
  exact step_inv hi h

/-- Settles O7: the records are kept by every body, the address spaces by every body but a registration. -/
theorem whatEveryCommandKeeps : Obligations.WhatEveryCommandKeeps := by
  unfold Obligations.WhatEveryCommandKeeps
  intro i s t h
  obtain ⟨hout, hparams, hport⟩ := exec_records h
  refine ⟨hout, hparams, hport, fun hregion hread hwrite => ?_⟩
  have hplain : isRegistration i = false := by
    cases i
    case registerRegion => exact absurd rfl (hregion _ _ _ _ _)
    case registerReadHandler => exact absurd rfl (hread _ _ _ _)
    case registerWriteHandler => exact absurd rfl (hwrite _ _ _ _)
    all_goals rfl
  have hspaces := exec_sameSpaces hplain h
  exact ⟨hspaces .P, hspaces .S⟩

/-- Settles O4: every instruction is one command, and the three clauses hold of every command. -/
theorem commandsAnswerNextAndFreezeAfterAFault : Obligations.CommandsAnswerNextAndFreezeAfterAFault := by
  unfold Obligations.CommandsAnswerNextAndFreezeAfterAFault
  refine ⟨fun i s => ?_, fun i s r hr => ?_, fun i s t r hs h hr => exec_fault_command hs h hr⟩
  · rw [exec_eq]
    exact runCommand_next _ _ s
  · rw [exec_eq]
    exact runCommand_frozen hr _ _

/-- Settles O5: nothing is registered, and nothing is written, running or queued. -/
theorem invariantAtPowerOn : Obligations.InvariantAtPowerOn := by
  unfold Obligations.InvariantAtPowerOn
  exact reset_inv
end

section
/-! ## Neighbouring pages of one registration (10_state.md R36, 40_address_space.md R200; log 21) -/

namespace Sys2Proof.Machine

/-! ### Arithmetic of a page offset under a mask -/

/-- A mask sends the next number to the next value exactly when it keeps every bit in which the two numbers differ. -/
theorem succ_and_eq_iff (q m : Nat) : (q + 1) &&& m = (q &&& m) + 1 ↔ (q ^^^ (q + 1)) &&& m = q ^^^ (q + 1) := by
  induction q using Nat.strongRecOn generalizing m with
  | ind q ih =>
    have hand : (q &&& m) / 2 = q / 2 &&& m / 2 := Nat.and_div_two
    have hsucc : ((q + 1) &&& m) / 2 = (q + 1) / 2 &&& m / 2 := Nat.and_div_two
    have hdiff : ((q ^^^ (q + 1)) &&& m) / 2 = (q / 2 ^^^ (q + 1) / 2) &&& m / 2 := by
      rw [Nat.and_div_two, Nat.xor_div_two]
    have hxor : (q ^^^ (q + 1)) / 2 = q / 2 ^^^ (q + 1) / 2 := Nat.xor_div_two
    have hxor_odd : (q ^^^ (q + 1)) % 2 = 1 := by rw [Nat.xor_mod_two_eq]; omega
    have hand_odd : (q &&& m) % 2 = 1 ↔ q % 2 = 1 ∧ m % 2 = 1 := Nat.and_mod_two_eq_one
    have hsucc_odd : ((q + 1) &&& m) % 2 = 1 ↔ (q + 1) % 2 = 1 ∧ m % 2 = 1 := Nat.and_mod_two_eq_one
    have hdiff_odd : ((q ^^^ (q + 1)) &&& m) % 2 = 1 ↔ (q ^^^ (q + 1)) % 2 = 1 ∧ m % 2 = 1 := Nat.and_mod_two_eq_one
    rcases Nat.mod_two_eq_zero_or_one q with heven | hodd
    · -- only bit 0 differs
      rw [show (q + 1) / 2 = q / 2 by omega] at hsucc hdiff hxor
      rw [Nat.xor_self] at hdiff hxor
      rw [Nat.zero_and] at hdiff
      omega
    · -- bit 0 differs, and the halves are neighbours
      have hhalf := ih (q / 2) (by omega) (m / 2)
      rw [show (q + 1) / 2 = q / 2 + 1 by omega] at hsucc hdiff hxor
      omega

theorem and_of_page {p : Nat} (hp : p % 4096 = 0) (m : Nat) : p &&& m = 4096 * (p / 4096 &&& m / 4096) := by
  have hdiv : (p &&& m) / 2 ^ 12 = p / 2 ^ 12 &&& m / 2 ^ 12 := Nat.and_div_two_pow
  have hmod : (p &&& m) % 2 ^ 12 = 0 := by
    rw [Nat.and_mod_two_pow, show p % 2 ^ 12 = 0 from hp, Nat.zero_and]
  rw [show (4096 : Nat) = 2 ^ 12 from rfl, ← hdiv]
  omega

theorem xor_of_pages {p p' : Nat} (hp : p % 4096 = 0) (hp' : p' % 4096 = 0) :
    p ^^^ p' = 4096 * (p / 4096 ^^^ p' / 4096) := by
  have hdiv : (p ^^^ p') / 2 ^ 12 = p / 2 ^ 12 ^^^ p' / 2 ^ 12 := Nat.xor_div_two_pow
  have hmod : (p ^^^ p') % 2 ^ 12 = 0 := by
    rw [Nat.xor_mod_two_pow, show p % 2 ^ 12 = 0 from hp, show p' % 2 ^ 12 = 0 from hp', Nat.xor_self]
  rw [show (4096 : Nat) = 2 ^ 12 from rfl, ← hdiv]
  omega

/-- Neighbouring pages have neighbouring offsets exactly when the mask keeps every bit in which they differ. -/
theorem nextPage_and_eq_iff {p : Nat} (hp : p % 4096 = 0) (m : Nat) :
    (p + 4096) &&& m = (p &&& m) + 4096 ↔ (p ^^^ (p + 4096)) &&& m = p ^^^ (p + 4096) := by
  have hp' : (p + 4096) % 4096 = 0 := by omega
  have hx := xor_of_pages hp hp'
  have hnext : (p + 4096) / 4096 = p / 4096 + 1 := by omega
  have h := succ_and_eq_iff (p / 4096) (m / 4096)
  rw [and_of_page hp, and_of_page hp', and_of_page (p := p ^^^ (p + 4096)) (by omega), hx, hnext,
    Nat.mul_div_cancel_left _ (by decide)]
  omega

/-! ### A mapped page stays as it is -/

/-- A page that is mapped in `s` has the same entry in `t` (10_state.md R36, "kept by every command"). -/
def KeepsPage (d : Domain) (p : Nat) (s t : State) : Prop :=
  ∀ e, (s.space d).pageEntry p = some e → (t.space d).pageEntry p = some e

theorem KeepsPage.trans {d : Domain} {p : Nat} {s t u : State} (h : KeepsPage d p s t) (k : KeepsPage d p t u) :
    KeepsPage d p s u := fun e he => k e (h e he)

theorem SameSpaces.keepsPage {s t : State} (h : SameSpaces s t) (d : Domain) (p : Nat) : KeepsPage d p s t :=
  fun e he => by rw [h d, he]

/-- Replacing one domain's address space by one that has its entry for a page keeps the page. -/
theorem setSpace_keepsPage {s : State} {d d' : Domain} {p : Nat} {as : AddrSpace}
    (h : ∀ e, (s.space d').pageEntry p = some e → as.pageEntry p = some e) : KeepsPage d p s (s.setSpace d' as) := by
  intro e he
  rw [State.setSpace_space]
  split
  · rename_i hd
    exact h e (hd ▸ he)
  · exact he

@[simp] theorem pageEntry_addHandler (as : AddrSpace) (dir : Dir) (w : Window) (p : Nat) :
    (as.addHandler dir w).pageEntry p = as.pageEntry p := by
  cases dir <;> rfl

/-- The check pass refuses a mapped page (40_address_space.md R200). -/
theorem registerRegion_keepsPage (d d' : Domain) {p : Nat} (hp : p % Config.pageSize = 0) (vstart vend : Nat)
    (mask : Word) (st : Store) (s : State) : KeepsPage d p s (registerRegion d' vstart vend mask st s).state := by
  rcases registerRegion_cases d' vstart vend mask st s with ⟨c, e⟩ | ⟨hs, he, hfree, e⟩
  · rw [e]
    exact fun _ h => h
  · rw [e]
    refine setSpace_keepsPage fun entry hentry => ?_
    rw [pageEntry_addRegion, if_neg, hentry]
    intro hin
    have hbad := hfree p ((mem_pagesOf hs he).2 ⟨hp, hin⟩)
    simp [badPage, hentry] at hbad

theorem bodyOf_keepsPage (i : Instr) (d : Domain) {p : Nat} (hp : p % Config.pageSize = 0) (s : State) :
    KeepsPage d p s (bodyOf i s).state := by
  cases hr : isRegistration i with
  | false => exact SameSpaces.keepsPage ((bodyOf_plain hr).keeps s).space d p
  | true =>
    rcases registration_cases hr with ⟨d', vstart, vend, mask, st, rfl⟩ | ⟨d', dir, lo, hi, h, hb⟩
    · exact registerRegion_keepsPage d d' hp _ _ mask st s
    · rw [hb]
      rcases registerHandler_cases d' dir lo hi h s with e | e <;> rw [e]
      · exact fun _ h => h
      · exact setSpace_keepsPage fun _ h => by rwa [pageEntry_addHandler]

theorem exec_keepsPage {i : Instr} {s t : State} (h : exec i s = .next t) (d : Domain) {p : Nat}
    (hp : p % Config.pageSize = 0) : KeepsPage d p s t :=
  exec_related h (fun _ _ he => he) (fun u r => SameSpaces.keepsPage (u.setResult_space r) d p)
    (fun u c who => (raise_sameSpaces c who u).keepsPage d p) .trans (bodyOf_keepsPage i d hp)

/-- A mapped page stays as it is whatever commands follow. -/
theorem execAll_keepsPage {is : List Instr} {s t : State} (h : execAll is s = some t) (d : Domain) {p : Nat}
    (hp : p % Config.pageSize = 0) : KeepsPage d p s t := by
  induction is generalizing s with
  | nil =>
    cases h
    exact fun _ he => he
  | cons i is ih =>
    unfold execAll at h
    split at h
    · rename_i u hx
      exact (exec_keepsPage hx d hp).trans (ih h)
    · cases h
    · cases h

/-! ### The pages of a registration -/

/-- A registration that leaves a live block live has added its region. -/
theorem exec_registerRegion_live {d : Domain} {vstart : Word} {vend : Nat} {mask : Word} {st : Store} {s t : State}
    (hs : s.Live) (h : exec (.registerRegion d vstart vend mask st) s = .next t) (ht : t.Live) :
    t.space d = (s.space d).addRegion ⟨vstart.toNat, vend, mask, st⟩ := by
  rcases registerRegion_cases d vstart.toNat vend mask st (s.setResult .none) with ⟨c, e⟩ | ⟨-, -, -, e⟩
  · rw [exec_raised (i := .registerRegion d vstart vend mask st) hs e] at h
    cases h
    cases ht
  · rw [exec_done (i := .registerRegion d vstart vend mask st) hs e] at h
    cases h
    simp

/-- The entry of a page inside the window of a registration (40_address_space.md R200). -/
theorem pageEntry_of_registered {d : Domain} {vstart : Word} {vend : Nat} {mask : Word} {st : Store} {s t : State}
    (hs : s.Live) (h : exec (.registerRegion d vstart vend mask st) s = .next t) (ht : t.Live) {p : Nat}
    (hlo : vstart.toNat ≤ p) (hhi : p < vend) :
    (t.space d).pageEntry p = some { store := st, off := p &&& mask.toNat, perm := storePerm st } := by
  rw [exec_registerRegion_live hs h ht, pageEntry_addRegion, if_pos ⟨hlo, hhi⟩]

end Sys2Proof.Machine

open Sys2Proof Sys2Proof.Machine

/-- Settles O60: both entries are those of R200, so their offsets are neighbours when the mask lets them be, and the
check pass keeps both. -/
theorem neighbouringPagesAreContiguousUnderTheMask : Obligations.NeighbouringPagesAreContiguousUnderTheMask := by
  unfold Obligations.NeighbouringPagesAreContiguousUnderTheMask
  intro s t d vstart vend mask st p hs h ht hp hlo hhi
  have hentry := pageEntry_of_registered hs h ht hlo (by omega)
  have hentry' := pageEntry_of_registered hs h ht (p := p + 4096) (by omega) hhi
  refine ⟨_, _, hentry, hentry', rfl, rfl, nextPage_and_eq_iff hp _, fun k hk => ?_, fun is u hu => ⟨?_, ?_⟩⟩
  · simp only [hk, Nat.and_two_pow_sub_one_eq_mod, Nat.mod_add_mod]
  · exact execAll_keepsPage hu d hp _ hentry
  · exact execAll_keepsPage hu d (by simpa [Config.pageSize] using hp) _ hentry'
end

section
/-! ## Steps, and accesses that are dropped or refused (20_memory.md R85, R88, R90, R102) -/

namespace Sys2Proof.Machine

/-! ### What a step does, by the port and the fault -/

theorem takeItem_of_port {s : State} {item : PortItem} {rest : List PortItem} (hp : s.port = item :: rest) :
    s.takeItem = { s with port := rest } := by
  rw [State.takeItem, hp, List.tail_cons]

theorem step_empty {s : State} (hp : s.port = []) : step s = .next s := by
  simp only [step, hp]

theorem step_frozen {s : State} {item : PortItem} {rest : List PortItem} {r : FaultRecord} (hr : s.fault = some r)
    (hp : s.port = item :: rest) : step s = .next s.takeItem := by
  simp only [step, hp, hr]

theorem step_decoded {s : State} {item : PortItem} {rest : List PortItem} {i : Instr} (hs : s.Live)
    (hp : s.port = item :: rest) (hd : decode item = .ok i) : step s = exec i s.takeItem := by
  simp only [step, hp, show s.fault = none from hs, hd]

/-! ### Misaligned accesses -/

theorem aligned_iff {w : Width} {va : Word} : aligned w va = true ↔ va.toNat % w.bytes = 0 := by
  simp [aligned]

theorem memRead_misaligned {w : Width} {va : Word} (ha : va.toNat % w.bytes ≠ 0) (d : Domain) (s : State) :
    memRead d w va s = .raised (.misaligned .read d w.bytes va) s :=
  if_neg (mt aligned_iff.1 ha)

theorem memWrite_misaligned {w : Width} {va : Word} (ha : va.toNat % w.bytes ≠ 0) (d : Domain) (v : BitVec 64)
    (s : State) : memWrite d w va v s = .raised (.misaligned .write d w.bytes va) s :=
  if_neg (mt aligned_iff.1 ha)

/-- Every command whose body is a read raises MISALIGNED at a misaligned address (20_memory.md R85). -/
theorem raises_of_misaligned_read {i : Instr} {d : Domain} {w : Width} {va : Word} {s : State} (hs : s.Live)
    (hb : bodyOf i = readCommand d w va) (ha : va.toNat % w.bytes ≠ 0) :
    Raises i (.misaligned .read d w.bytes va) s :=
  exec_raised (t := s.setResult .none) hs (by rw [hb, readCommand, memRead_misaligned ha, Reply.andThen_raised])

/-- Every command whose body is a write raises MISALIGNED at a misaligned address (20_memory.md R85). -/
theorem raises_of_misaligned_write {i : Instr} {d : Domain} {w : Width} {va : Word} {v : BitVec 64} {s : State}
    (hs : s.Live) (hb : bodyOf i = writeCommand d w va v) (ha : va.toNat % w.bytes ≠ 0) :
    Raises i (.misaligned .write d w.bytes va) s :=
  exec_raised (t := s.setResult .none) hs
    (by rw [hb, writeCommand, memWrite_misaligned ha, Reply.noResult, Reply.andThen_raised])

/-! ### Writes to read-only pages -/

theorem memWrite_readOnly {d : Domain} {w : Width} {va : Word} {st : Store} {off : Nat} {s : State}
    (ha : va.toNat % w.bytes = 0) (hl : lookup d .write va s = .fast st off .ro) (v : BitVec 64) :
    memWrite d w va v s = .done () (s.emit (.diag .writeRO d w.bytes va (some v))) := by
  rw [memWrite, if_pos (aligned_iff.2 ha), hl]

/-- Every command whose body is a write only logs an aligned write to a read-only page (20_memory.md R102). -/
theorem exec_write_readOnly {i : Instr} {d : Domain} {w : Width} {va : Word} {v : BitVec 64} {st : Store} {off : Nat}
    {s : State} (hs : s.Live) (hb : bodyOf i = writeCommand d w va v) (ha : va.toNat % w.bytes = 0)
    (hl : lookup d .write va s = .fast st off .ro) :
    exec i s = .next { s with out := s.out ++ [.diag .writeRO d w.bytes va (some v)], result := .none } := by
  have hl' : lookup d .write va (s.setResult .none) = .fast st off .ro :=
    (lookup_congr d (s.setResult_space .none d) .write va).trans hl
  exact exec_done hs (by rw [hb, writeCommand, memWrite_readOnly ha hl', Reply.noResult, Reply.andThen_done])

end Sys2Proof.Machine

open Sys2Proof Sys2Proof.Machine

/-- Settles O2: the three clauses are the branches of `step` on the port, the fault and the decoder. -/
theorem stepRunsDecodedCommand : Obligations.StepRunsDecodedCommand := by
  unfold Obligations.StepRunsDecodedCommand
  refine ⟨fun s item rest i hs hp hd => ?_, fun s hp => step_empty hp, fun s item rest r hr hp => ?_⟩
  · rw [step_decoded hs hp hd, takeItem_of_port hp]
  · rw [step_frozen hr hp, takeItem_of_port hp]

/-- Settles O22: the four commands have a write as their body, and a write to a read-only page only logs. -/
theorem readOnlyPagesDropWrites : Obligations.ReadOnlyPagesDropWrites := by
  unfold Obligations.ReadOnlyPagesDropWrites
  intro s d va st off hs hl
  exact ⟨fun _ => exec_write_readOnly (w := .w8) hs rfl (Nat.mod_one _) hl,
    fun ha _ => exec_write_readOnly (w := .w16) hs rfl ha hl, fun ha _ => exec_write_readOnly (w := .w32) hs rfl ha hl,
    fun ha _ => exec_write_readOnly (w := .w64) hs rfl ha hl⟩

/-- Settles O24: at each width the alignment check comes first, in the body of the read and in that of the write. -/
theorem misalignedAccessesRefused : Obligations.MisalignedAccessesRefused := by
  unfold Obligations.MisalignedAccessesRefused
  intro s d va hs
  have hread (w : Width) {i : Instr} (hb : bodyOf i = readCommand d w va) (ha : va.toNat % w.bytes ≠ 0) :=
    raises_of_misaligned_read hs hb ha
  have hwrite (w : Width) {i : Instr} {v : BitVec 64} (hb : bodyOf i = writeCommand d w va v)
      (ha : va.toNat % w.bytes ≠ 0) := raises_of_misaligned_write hs hb ha
  exact ⟨fun ha => ⟨hread .w16 rfl ha, fun _ => hwrite .w16 rfl ha⟩,
    fun ha => ⟨hread .w32 rfl ha, fun _ => hwrite .w32 rfl ha⟩,
    fun ha => ⟨hread .w64 rfl ha, fun _ => hwrite .w64 rfl ha⟩⟩
end

section
/-! ## The default map (20_memory.md R100, 70_reset_and_hazards.md R460) -/

namespace Sys2Proof.Machine

/-! ### Lookup in a good address space, by the region or the window that holds the address -/

/-- A search finds the only element that it can. -/
theorem find?_of_unique {α : Type} {l : List α} {q : α → Bool} {x : α} (hx : x ∈ l) (hq : q x = true)
    (honly : ∀ y ∈ l, q y = true → y = x) : l.find? q = some x := by
  cases hf : l.find? q with
  | none => exact absurd hq (List.find?_eq_none.1 hf x hx)
  | some y => rw [honly y (List.mem_of_find?_eq_some hf) (List.find?_some hf)]

theorem Region.covers_iff {r : Region} {p : Nat} : r.covers p = true ↔ r.vstart ≤ p ∧ p < r.vend := by
  simp [Region.covers]

theorem Window.holds_iff {w : Window} {a : Nat} : w.holds a = true ↔ w.lo ≤ a ∧ a < w.hi := by
  simp [Window.holds]

/-- One region of a good address space covers a page (10_state.md R36 b). -/
theorem AddrSpace.Good.region_unique {as : AddrSpace} (h : as.Good) {r r' : Region} {p : Nat} (hr : r ∈ as.regions)
    (hr' : r' ∈ as.regions) (hc : r.covers p = true) (hc' : r'.covers p = true) : r' = r := by
  by_contra hne
  have : Std.Symm Region.Apart := ⟨fun _ _ => Or.symm⟩
  have hapart : r'.vend ≤ r.vstart ∨ r.vend ≤ r'.vstart := h.regions_apart.forall hr' hr hne
  rw [Region.covers_iff] at hc hc'
  omega

theorem AddrSpace.Good.handlers_apart {as : AddrSpace} (h : as.Good) (dir : Dir) :
    (as.handlers dir).Pairwise Window.Apart := by
  cases dir
  · exact h.read_apart
  · exact h.write_apart

/-- One window of a direction of a good address space holds an address (40_address_space.md R201). -/
theorem AddrSpace.Good.window_unique {as : AddrSpace} (h : as.Good) {dir : Dir} {w w' : Window} {a : Nat}
    (hw : w ∈ as.handlers dir) (hw' : w' ∈ as.handlers dir) (hh : w.holds a = true) (hh' : w'.holds a = true) :
    w' = w := by
  by_contra hne
  have : Std.Symm Window.Apart := ⟨fun _ _ => Or.symm⟩
  have hapart : w'.hi ≤ w.lo ∨ w.hi ≤ w'.lo := (h.handlers_apart dir).forall hw' hw hne
  rw [Window.holds_iff] at hh hh'
  omega

/-- A page-aligned region covers the page of an address exactly when it holds the address. -/
theorem Region.Good.covers_pageOf {r : Region} (h : r.Good) (pa : Word) :
    r.covers (pageOf pa) = true ↔ r.vstart ≤ pa.toNat ∧ pa.toNat < r.vend := by
  obtain ⟨hstart, hend, -, -, -⟩ := h
  simp only [Config.pageSize] at hstart hend
  rw [Region.covers_iff, pageOf, Config.pageSize]
  omega

theorem lookup_of_region {s : State} {d : Domain} (h : (s.space d).Good) {r : Region} (hr : r ∈ (s.space d).regions)
    {va : Word} (hin : r.vstart ≤ (translate d va).toNat ∧ (translate d va).toNat < r.vend) (dir : Dir) :
    lookup d dir va s = .fast r.store
      (r.pageOff (pageOf (translate d va)) + (translate d va).toNat % Config.pageSize) (storePerm r.store) := by
  have hc := ((h.regions_good r hr).covers_pageOf _).2 hin
  have hfind := find?_of_unique hr hc fun r' hr' hc' => h.region_unique hr hr' hc hc'
  simp only [lookup, AddrSpace.pageEntry, hfind, Option.map_some]

/-- The page of an address outside every region is not mapped. -/
theorem AddrSpace.Good.pageEntry_outside {as : AddrSpace} (h : as.Good) {pa : Word}
    (hout : ∀ r ∈ as.regions, pa.toNat < r.vstart ∨ r.vend ≤ pa.toNat) : as.pageEntry (pageOf pa) = none := by
  refine pageEntry_eq_none.2 fun r hr => ?_
  rw [← Bool.not_eq_true, (h.regions_good r hr).covers_pageOf]
  have := hout r hr
  omega

theorem lookup_of_window {s : State} {d : Domain} (h : (s.space d).Good) {dir : Dir} {w : Window}
    (hw : w ∈ (s.space d).handlers dir) {va : Word}
    (hout : ∀ r ∈ (s.space d).regions, (translate d va).toNat < r.vstart ∨ r.vend ≤ (translate d va).toNat)
    (hin : w.lo ≤ (translate d va).toNat ∧ (translate d va).toNat < w.hi) :
    lookup d dir va s = .handler w.handler (translate d va) := by
  have hh := Window.holds_iff.2 hin
  have hfind := find?_of_unique hw hh fun w' hw' hh' => h.window_unique hw hw' hh hh'
  simp only [lookup, h.pageEntry_outside hout, hfind]

theorem lookup_of_nothing {s : State} {d : Domain} (h : (s.space d).Good) {dir : Dir} {va : Word}
    (hout : ∀ r ∈ (s.space d).regions, (translate d va).toNat < r.vstart ∨ r.vend ≤ (translate d va).toNat)
    (hnone : ∀ w ∈ (s.space d).handlers dir, (translate d va).toNat < w.lo ∨ w.hi ≤ (translate d va).toNat) :
    lookup d dir va s = .unmapped (translate d va) := by
  have hfind : ((s.space d).handlers dir).find? (fun w => w.holds (translate d va).toNat) = none := by
    refine List.find?_eq_none.2 fun w hw => ?_
    rw [Window.holds_iff]
    have := hnone w hw
    omega
  simp only [lookup, h.pageEntry_outside hout, hfind]

/-! ### Regions that map a store once -/

/-- The window of a region holds at most one mirror of `2 ^ k` bytes, from its start on (40_address_space.md R200). -/
def Region.OneMirror (r : Region) (k : Nat) : Prop :=
  12 ≤ k ∧ r.mask.toNat = 2 ^ k - 1 ∧ r.vstart % 2 ^ k = 0 ∧ r.vend ≤ r.vstart + 2 ^ k

theorem Region.OneMirror.offset {r : Region} {k : Nat} (h : r.OneMirror k) {pa : Word}
    (hin : r.vstart ≤ pa.toNat ∧ pa.toNat < r.vend) :
    r.pageOff (pageOf pa) + pa.toNat % Config.pageSize = pa.toNat - r.vstart := by
  obtain ⟨hk, hmask, hstart, hend⟩ := h
  obtain ⟨j, hj⟩ := Nat.dvd_of_mod_eq_zero hstart
  have hpages : 2 ^ k % 4096 = 0 := Nat.mod_eq_zero_of_dvd (pow_dvd_pow 2 hk)
  have hstart' : r.vstart % 4096 = 0 := by rw [hj, Nat.mul_mod, hpages, Nat.zero_mul, Nat.zero_mod]
  have hsplit : pageOf pa = (pa.toNat - r.vstart) / 4096 * 4096 + 2 ^ k * j := by
    rw [pageOf, Config.pageSize, ← hj]
    omega
  rw [Region.pageOff, hmask, Nat.and_two_pow_sub_one_eq_mod, hsplit, Nat.add_mul_mod_self_left, Config.pageSize,
    Nat.mod_eq_of_lt (by omega)]
  omega

theorem lookup_of_oneMirror {s : State} {d : Domain} (h : (s.space d).Good) {r : Region}
    (hr : r ∈ (s.space d).regions) {k : Nat} (hk : r.OneMirror k) {va : Word}
    (hin : r.vstart ≤ (translate d va).toNat ∧ (translate d va).toNat < r.vend) (dir : Dir) :
    lookup d dir va s = .fast r.store ((translate d va).toNat - r.vstart) (storePerm r.store) := by
  rw [lookup_of_region h hr hin, hk.offset hin]

/-! ### The registrations -/

theorem storeSize_mod (st : Store) : Config.storeSize st % 4096 = 0 := by
  cases st <;> rfl

/-- A page's offset under a mask below the store's size leaves room for the page. -/
theorem and_mask_inside {p : Nat} (hp : p % 4096 = 0) {mask : Word} {st : Store}
    (hmask : mask.toNat < Config.storeSize st) : (p &&& mask.toNat) + 4096 ≤ Config.storeSize st := by
  have hle : p &&& mask.toNat ≤ mask.toNat := Nat.and_le_right
  have hsize := storeSize_mod st
  rw [and_of_page hp] at hle ⊢
  omega

/-- What `RegisterRegion` accepts: page bounds, a mask inside the store, no region in the way (40_address_space.md
R200). -/
def Region.Acceptable (r : Region) (as : AddrSpace) : Prop :=
  r.vstart % 4096 = 0 ∧ r.vend % 4096 = 0 ∧ r.vstart < r.vend ∧ r.mask.toNat < Config.storeSize r.store ∧
  ∀ r' ∈ as.regions, r.vend ≤ r'.vstart ∨ r'.vend ≤ r.vstart

theorem Region.Acceptable.page_free {r : Region} {as : AddrSpace} (h : r.Acceptable as) {p : Nat}
    (hp : p ∈ pagesOf r.vstart r.vend) : badPage as r.mask r.store p = false := by
  obtain ⟨hstart, hend, -, hmask, hfree⟩ := h
  obtain ⟨hpage, hlo, hhi⟩ := (mem_pagesOf hstart hend).1 hp
  have hnone : as.pageEntry p = none := by
    refine pageEntry_eq_none.2 fun r' hr' => ?_
    rw [← Bool.not_eq_true, Region.covers_iff]
    have := hfree r' hr'
    omega
  have hinside := and_mask_inside hpage hmask
  rw [badPage, hnone, Option.isSome_none, Bool.false_or]
  exact decide_eq_false (not_lt.2 hinside)

theorem exec_registerRegion_acceptable {d : Domain} {vstart : Word} {vend : Nat} {mask : Word} {st : Store} {s : State}
    (hs : s.Live) (h : Region.Acceptable ⟨vstart.toNat, vend, mask, st⟩ (s.space d)) :
    exec (.registerRegion d vstart vend mask st) s =
      .next ((s.setSpace d ((s.space d).addRegion ⟨vstart.toNat, vend, mask, st⟩)).setResult .none) := by
  have hfind : (pagesOf vstart.toNat vend).find? (badPage (s.space d) mask st) = none :=
    List.find?_eq_none.2 fun p hp => by simpa using h.page_free hp
  obtain ⟨hstart, hend, hlt, -, -⟩ := h
  have hbounds : ¬ (vstart.toNat % Config.pageSize ≠ 0 ∨ vend % Config.pageSize ≠ 0 ∨ vend ≤ vstart.toNat) := by
    rintro (hb | hb | hb)
    exacts [hb hstart, hb hend, not_lt.2 hb hlt]
  have hbody : bodyOf (.registerRegion d vstart vend mask st) (s.setResult .none) =
      .done .none ((s.setResult .none).setSpace d ((s.space d).addRegion ⟨vstart.toNat, vend, mask, st⟩)) := by
    simp only [bodyOf, registerRegion, if_neg hbounds, State.setResult_space, hfind]
  rw [exec_done hs hbody]
  cases d <;> rfl

theorem execAll_cons_next {i : Instr} {s t : State} (h : exec i s = .next t) (is : List Instr) :
    execAll (i :: is) s = execAll is t := by
  simp only [execAll, h]

theorem execAll_inv {is : List Instr} {s t : State} (hi : Inv s) (hend : ∀ i ∈ is, RegionEndBounded i)
    (h : execAll is s = some t) : Inv t := by
  induction is generalizing s with
  | nil =>
    cases h
    exact hi
  | cons i is ih =>
    unfold execAll at h
    split at h
    · rename_i u hx
      exact ih (exec_inv hi (hend i List.mem_cons_self) hx) (fun j hj => hend j (List.mem_cons_of_mem i hj)) h
    · cases h
    · cases h

/-! ### The assembled state -/

/-- The regions of the default map, newest first. -/
def mapRegions : Domain → List Region
  | .P => [⟨0x1FC00000, 0x20000000, 0x003FFFFF, .bootRom⟩, ⟨0x70000000, 0x70004000, 0x00003FFF, .scratch⟩,
      ⟨0x00000000, 0x02000000, 0x01FFFFFF, .mainRam⟩]
  | .S => [⟨0x1FC00000, 0x20000000, 0x003FFFFF, .bootRom⟩, ⟨0x00000000, 0x00200000, 0x001FFFFF, .iopRam⟩]

/-- The handler windows of the default map, the same for reads and writes. -/
def mapWindows : Domain → List Window
  | .P => [⟨0x1000F200, 0x1000F270, .sif⟩]
  | .S => [⟨0x1F801080, 0x1F801100, .dma⟩, ⟨0x1F801500, 0x1F801580, .dma⟩, ⟨0x1D000000, 0x1D000070, .sif⟩]

/-- An address space of the default map. -/
def mapSpace (d : Domain) : AddrSpace := ⟨mapRegions d, mapWindows d, mapWindows d⟩

/-- The state that the registrations of the default map leave. -/
def mappedState : State := { State.reset with asP := mapSpace .P, asS := mapSpace .S }

@[simp] theorem mappedState_regions (d : Domain) : (mappedState.space d).regions = mapRegions d := by
  cases d <;> rfl

@[simp] theorem mappedState_handlers (d : Domain) (dir : Dir) : (mappedState.space d).handlers dir = mapWindows d := by
  cases d <;> cases dir <;> rfl

/-- Each region is acceptable after those before it; the windows overlap no other. -/
theorem execAll_defaultMap : execAll defaultMap State.reset = some mappedState := by
  unfold defaultMap
  iterate 5
    refine (execAll_cons_next (exec_registerRegion_acceptable rfl ?_) _).trans ?_
    · exact ⟨rfl, rfl, by decide, by decide, by decide⟩
  rfl

theorem regionEnd_of_wellFormed {i : Instr} (h : i.wellFormed = true) : RegionEndBounded i := by
  rintro d vstart vend mask st rfl
  exact of_decide_eq_true h

theorem mappedState_good (d : Domain) : (mappedState.space d).Good :=
  have hend : ∀ i ∈ defaultMap, i.wellFormed = true := by decide
  (execAll_inv reset_inv (fun i hi => regionEnd_of_wellFormed (hend i hi)) execAll_defaultMap).space_good d

theorem mapRegions_oneMirror {d : Domain} {r : Region} (hr : r ∈ mapRegions d) : ∃ k, r.OneMirror k := by
  cases d
  · simp only [mapRegions, List.mem_cons, List.not_mem_nil, or_false] at hr
    obtain rfl | rfl | rfl := hr
    exacts [⟨22, by decide, rfl, rfl, le_rfl⟩, ⟨14, by decide, rfl, rfl, le_rfl⟩, ⟨25, by decide, rfl, rfl, le_rfl⟩]
  · simp only [mapRegions, List.mem_cons, List.not_mem_nil, or_false] at hr
    obtain rfl | rfl := hr
    exacts [⟨22, by decide, rfl, rfl, le_rfl⟩, ⟨21, by decide, rfl, rfl, le_rfl⟩]

/-! ### What a translated address reaches in the assembled state -/

section
variable {d : Domain} {va : Word}

theorem mappedState_lookup_region {r : Region} (hr : r ∈ mapRegions d)
    (hin : r.vstart ≤ (translate d va).toNat ∧ (translate d va).toNat < r.vend) (dir : Dir) :
    lookup d dir va mappedState = .fast r.store ((translate d va).toNat - r.vstart) (storePerm r.store) := by
  obtain ⟨k, hk⟩ := mapRegions_oneMirror hr
  exact lookup_of_oneMirror (mappedState_good d) (by rwa [mappedState_regions]) hk hin dir

/-- No region of the default map holds the translated address. -/
def OutsideMap (d : Domain) (va : Word) : Prop :=
  ∀ r ∈ mapRegions d, (translate d va).toNat < r.vstart ∨ r.vend ≤ (translate d va).toNat

theorem mappedState_lookup_window (hout : OutsideMap d va) {w : Window} (hw : w ∈ mapWindows d)
    (hin : w.lo ≤ (translate d va).toNat ∧ (translate d va).toNat < w.hi) (dir : Dir) :
    lookup d dir va mappedState = .handler w.handler (translate d va) :=
  lookup_of_window (mappedState_good d) (by rwa [mappedState_handlers]) (by rwa [mappedState_regions]) hin

theorem mappedState_lookup_nothing (hout : OutsideMap d va)
    (hnone : ∀ w ∈ mapWindows d, (translate d va).toNat < w.lo ∨ w.hi ≤ (translate d va).toNat) (dir : Dir) :
    lookup d dir va mappedState = .unmapped (translate d va) :=
  lookup_of_nothing (mappedState_good d) (by rwa [mappedState_regions]) (by rwa [mappedState_handlers])

end

end Sys2Proof.Machine

open Sys2Proof Sys2Proof.Machine

/-- Settles O30: the registrations leave `mappedState`, a good state; each clause of the map is then a region, a window,
or neither. -/
theorem defaultMapAfterAssembly : Obligations.DefaultMapAfterAssembly := by
  unfold Obligations.DefaultMapAfterAssembly
  refine ⟨rfl, mappedState, execAll_defaultMap, rfl, rfl, fun dir va => ?_, fun dir va => ?_⟩
  · dsimp only
    split_ifs with hmain hscratch hboot hsif
    · exact mappedState_lookup_region (r := ⟨0, 0x02000000, 0x01FFFFFF, .mainRam⟩) (by decide) ⟨Nat.zero_le _, hmain⟩ dir
    · exact mappedState_lookup_region (r := ⟨0x70000000, 0x70004000, 0x3FFF, .scratch⟩) (by decide) hscratch dir
    · exact mappedState_lookup_region (r := ⟨0x1FC00000, 0x20000000, 0x3FFFFF, .bootRom⟩) (by decide) hboot dir
    all_goals
      have hout : OutsideMap .P va := by
        simp only [OutsideMap, mapRegions, List.forall_mem_cons, List.not_mem_nil, false_imp_iff, implies_true, and_true]
        omega
    · exact mappedState_lookup_window hout (w := ⟨0x1000F200, 0x1000F270, .sif⟩) (by decide) hsif dir
    · refine mappedState_lookup_nothing hout ?_ dir
      simp only [mapWindows, List.forall_mem_cons, List.not_mem_nil, false_imp_iff, implies_true, and_true]
      omega
  · dsimp only
    split_ifs with hiop hboot hlow hhigh hsif
    · exact mappedState_lookup_region (r := ⟨0, 0x00200000, 0x001FFFFF, .iopRam⟩) (by decide) ⟨Nat.zero_le _, hiop⟩ dir
    · exact mappedState_lookup_region (r := ⟨0x1FC00000, 0x20000000, 0x3FFFFF, .bootRom⟩) (by decide) hboot dir
    all_goals
      have hout : OutsideMap .S va := by
        simp only [OutsideMap, mapRegions, List.forall_mem_cons, List.not_mem_nil, false_imp_iff, implies_true, and_true]
        omega
    · exact mappedState_lookup_window hout (w := ⟨0x1F801080, 0x1F801100, .dma⟩) (by decide) hlow dir
    · exact mappedState_lookup_window hout (w := ⟨0x1F801500, 0x1F801580, .dma⟩) (by decide) hhigh dir
    · exact mappedState_lookup_window hout (w := ⟨0x1D000000, 0x1D000070, .sif⟩) (by decide) hsif dir
    · refine mappedState_lookup_nothing hout ?_ dir
      simp only [mapWindows, List.forall_mem_cons, List.not_mem_nil, false_imp_iff, implies_true, and_true]
      omega
end

section
/-! ## The decoder and the encoder are inverse (30_encoding.md R140, R141; log 2) -/

namespace Sys2Proof

/-! ### Reading a frame -/

/-- The decoder of a format, on the number that a frame spells. -/
def decodeForm : Form → Nat → Except DecodeError Instr
  | .command => decodeCommand
  | .mmio32 => decodeBus
  | .mmioChannel => decodeChannel

theorem decode_of_length {item : PortItem} (h : item.bytes.length = frameBytes) :
    decode item = decodeForm item.form (bytesToNat item.bytes) := by
  rw [decode, if_neg (not_not_intro h)]
  cases item.form <;> rfl

theorem length_of_decode {item : PortItem} {i : Instr} (h : decode item = .ok i) : item.bytes.length = frameBytes := by
  by_contra hne
  rw [decode, if_pos hne] at h
  cases h

open Laws.EncodedFits in
/-- Every well-formed instruction fits its frame. -/
theorem encodedFits : ∀ i, Laws.EncodedFits.Statement i :=
  Instr.rec registerRegion registerReadHandler registerWriteHandler readByte readHalf readWord readDouble readQuad
    writeByte writeHalf writeWord writeDouble writeQuad translateVirtualAddress validCodeRegion dmaReset dmaRun
    dmaReadRegister dmaWriteRegister writeSide0Fifo writeSide1FifoWord writeSide1FifoWide readSide0Fifo readSide1Fifo
    getSide0FifoSize getSide1FifoSize sifReadRegister sifWriteMscom sifWriteSmcom sifWriteMsflag sifWriteSmflag
    sifWriteCtrl sifWriteBd6 ldDpcr stDpcr ldDicr stDicr ldDpcr2 stDpcr2 ldDicr2 stDicr2 ldDmacen stDmacen ldDmacinten
    stDmacinten ldMadr stMadr ldBcr stBcr ldBcrCount stBcrCount ldChcr stChcr ldTadr stTadr ldMscomP stMscomP ldSmcomP
    stSmcomP ldMsflagP stMsflagP ldSmflagP stSmflagP ldCtrlP stCtrlP ldBd6P stBd6P ldMscomS stMscomS ldSmcomS stSmcomS
    ldMsflagS stMsflagS ldSmflagS stSmflagS ldCtrlS stCtrlS ldBd6S stBd6S

/-- The decoder reads a well-formed instruction's frame as the number that the instruction's fields spell. -/
theorem decode_encode_eq {i : Instr} (h : i.wellFormed = true) :
    decode (encode i) = decodeForm i.fields.1 (joinFields i.fields.2) := by
  obtain ⟨hfit, hwidth⟩ := encodedFits i h
  rw [encode, decode_of_length (natToBytes_length ..), bytesToNat_frame hfit hwidth]

/-! ### Command items -/

/-- An item of a selector and operands that fit decodes to the command that they build. -/
theorem decodeCommand_commandFields {sel : Selector} {vals : List Nat} {i : Instr}
    (hfit : FieldsFit (commandFields sel vals)) (hlen : vals.length = sel.layout.length)
    (hb : buildCommand sel vals = some i) : decodeCommand (joinFields (commandFields sel vals)) = .ok i := by
  have hfit' : FieldsFit (sel.layout.zip vals) := fun f hf => hfit f (List.mem_cons_of_mem _ hf)
  have hfst : (sel.layout.zip vals).map Prod.fst = sel.layout := List.map_fst_zip hlen.ge
  have hsnd : (sel.layout.zip vals).map Prod.snd = vals := List.map_snd_zip hlen.le
  have hsel := sel.code_lt
  have habove := aboveFields_joinFields hfit'
  have hsplit := splitFields_joinFields hfit'
  rw [hfst] at habove hsplit
  rw [hsnd] at hsplit
  have hmod : joinFields (commandFields sel vals) % 256 = sel.code := by
    simp only [commandFields, joinFields]; omega
  have hdiv : joinFields (commandFields sel vals) / 256 = joinFields (sel.layout.zip vals) := by
    simp only [commandFields, joinFields]; omega
  simp [decodeCommand, hmod, hdiv, habove, hsplit, hb]

theorem splitFields_fit (ks : List Nat) (w : Nat) : FieldsFit (ks.zip (splitFields ks w)) := by
  induction ks generalizing w with
  | nil => exact Laws.EncodedFits.nil
  | cons k ks ih => exact Laws.EncodedFits.cons (Nat.mod_lt _ (Nat.two_pow_pos k)) (ih _)

theorem Selector.code_of_ofCode {n : Nat} {sel : Selector} (h : Selector.ofCode n = some sel) : sel.code = n := by
  simpa using List.find?_some h

/-- A command item that decodes holds a selector and operand fields from which its command is built. -/
theorem decodeCommand_ok {w : Nat} {i : Instr} (h : decodeCommand w = .ok i) :
    ∃ sel vals, FieldsFit (sel.layout.zip vals) ∧ buildCommand sel vals = some i ∧
      w = joinFields (commandFields sel vals) := by
  unfold decodeCommand at h
  split at h
  · cases h
  · rename_i sel hsel
    split_ifs at h with habove
    split at h
    · rename_i hb
      cases h
      refine ⟨sel, _, splitFields_fit _ _, hb, ?_⟩
      rw [commandFields, joinFields, joinFields_splitFields (not_not.1 habove), Selector.code_of_ofCode hsel]
      exact (Nat.mod_add_div w 256).symm
    · cases h

/-! ### Register items -/

/-- The lowest field of a number, whatever stands above it. -/
theorem ofNat_toNat_add {n : Nat} (x : BitVec n) (k : Nat) : BitVec.ofNat n (x.toNat + 2 ^ n * k) = x := by
  apply BitVec.eq_of_toNat_eq
  rw [BitVec.toNat_ofNat, Nat.add_mul_mod_self_left, Nat.mod_eq_of_lt x.isLt]

theorem joinFields_busLoadFields (a : Word) : joinFields (busLoadFields a) = a.toNat := by
  simp [busLoadFields, joinFields]

theorem joinFields_busStoreFields (a v : Word) :
    joinFields (busStoreFields a v) = a.toNat + 2 ^ 32 * (1 + 2 ^ 8 * v.toNat) := by
  simp [busStoreFields, joinFields]

theorem BusReg.addr_of_ofAddr {a : Word} {r : BusReg} (h : BusReg.ofAddr a = some r) : r.addr = a := by
  simpa using List.find?_some h

/-- A register item at a full address that decodes is a read or a write of the register at its address. -/
theorem decodeBus_ok {w : Nat} {i : Instr} (h : decodeBus w = .ok i) :
    (∃ r : BusReg, i = r.load ∧ w = joinFields (busLoadFields r.addr)) ∨
    ∃ (r : BusReg) (v : Word), i = r.store v ∧ w = joinFields (busStoreFields r.addr v) := by
  simp only [joinFields_busLoadFields, joinFields_busStoreFields]
  unfold decodeBus at h
  split at h
  · cases h
  · rename_i r hr
    have ha : r.addr.toNat = w % 2 ^ 32 := by rw [BusReg.addr_of_ofAddr hr, BitVec.toNat_ofNat]
    split_ifs at h with hkind hpad hkind' hpad <;> cases h
    · exact .inl ⟨r, rfl, by omega⟩
    · exact .inr ⟨r, _, rfl, by rw [BitVec.toNat_ofNat]; omega⟩

theorem decodeBus_busLoadFields {a : Word} {r : BusReg} (h : BusReg.ofAddr a = some r) :
    decodeBus (joinFields (busLoadFields a)) = .ok r.load := by
  have ha := a.isLt
  rw [joinFields_busLoadFields, decodeBus, BitVec.ofNat_toNat, BitVec.setWidth_eq, h]
  dsimp only
  rw [if_pos (by omega), if_pos (by omega)]

theorem decodeBus_busStoreFields {a : Word} {r : BusReg} (h : BusReg.ofAddr a = some r) (v : Word) :
    decodeBus (joinFields (busStoreFields a v)) = .ok (r.store v) := by
  have ha := a.isLt
  have hv := v.isLt
  have hdata : (a.toNat + 2 ^ 32 * (1 + 2 ^ 8 * v.toNat)) / 2 ^ 40 = v.toNat := by omega
  rw [joinFields_busStoreFields, decodeBus, ofNat_toNat_add, h]
  dsimp only
  rw [if_neg (by omega), if_pos (by omega), if_pos (by omega), hdata, BitVec.ofNat_toNat, BitVec.setWidth_eq]

theorem joinFields_chanLoadFields (r : ChanReg) (slot : BitVec 4) :
    joinFields (chanLoadFields r slot) = r.off.toNat + 2 ^ 4 * slot.toNat := by
  simp [chanLoadFields, joinFields]

theorem joinFields_chanStoreFields (r : ChanReg) (slot : BitVec 4) (v : Nat) :
    joinFields (chanStoreFields r slot v) = r.off.toNat + 2 ^ 4 * (slot.toNat + 2 ^ 4 * (1 + 2 ^ 8 * v)) := by
  simp [chanStoreFields, joinFields]

theorem ChanReg.off_of_ofOff {off : BitVec 4} {r : ChanReg} (h : ChanReg.ofOff off = some r) : r.off = off := by
  simpa using List.find?_some h

/-- No controller register stands at the address of a channel's register (30_encoding.md R122). -/
def IsChannelRegister (r : ChanReg) (slot : BitVec 4) : Prop := CtrlReg.ofAddr (channelAddr slot r.off) = none

/-- Nothing stands past the data of a channel write when the data fits its register. -/
theorem chanPadding_eq_zero_iff (r : ChanReg) (w : Nat) :
    w / 2 ^ (16 + r.width.bits) = 0 ↔ w / 2 ^ 16 < 2 ^ r.width.bits := by
  rw [Nat.pow_add, ← Nat.div_div_eq_div_mul, Nat.div_eq_zero_iff_lt (Nat.two_pow_pos _)]

/-- A channel item that decodes is a read or a write of the register at its slot and offset. -/
theorem decodeChannel_ok {w : Nat} {i : Instr} (h : decodeChannel w = .ok i) :
    (∃ r slot, IsChannelRegister r slot ∧ i = loadChan r slot ∧ w = joinFields (chanLoadFields r slot)) ∨
    ∃ r slot v, IsChannelRegister r slot ∧ v < 2 ^ r.width.bits ∧ i = storeChan r slot v ∧
      w = joinFields (chanStoreFields r slot v) := by
  simp only [joinFields_chanLoadFields, joinFields_chanStoreFields]
  unfold decodeChannel at h
  split at h
  · cases h
  · rename_i r hr
    have ho : r.off.toNat = w % 2 ^ 4 := by rw [ChanReg.off_of_ofOff hr, BitVec.toNat_ofNat]
    have hslot : (BitVec.ofNat 4 (w / 16)).toNat = w / 16 % 2 ^ 4 := BitVec.toNat_ofNat ..
    dsimp only at h
    split_ifs at h with hctrl hkind hpad hkind' hpad <;> cases h
    all_goals have hchan := Option.not_isSome_iff_eq_none.1 hctrl
    · exact .inl ⟨r, _, hchan, rfl, by omega⟩
    · exact .inr ⟨r, _, _, hchan, (chanPadding_eq_zero_iff r w).1 hpad, rfl, by omega⟩

theorem decodeChannel_chanLoadFields {r : ChanReg} {slot : BitVec 4} (h : IsChannelRegister r slot) :
    decodeChannel (joinFields (chanLoadFields r slot)) = .ok (loadChan r slot) := by
  have ho := r.off.isLt
  have hs := slot.isLt
  have hslot : (r.off.toNat + 2 ^ 4 * slot.toNat) / 16 = slot.toNat := by omega
  rw [joinFields_chanLoadFields, decodeChannel, ofNat_toNat_add, ChanReg.ofOff_off, hslot, BitVec.ofNat_toNat,
    BitVec.setWidth_eq]
  dsimp only
  rw [h, Option.isSome_none, if_neg Bool.false_ne_true, if_pos (by omega), if_pos (by omega)]

theorem decodeChannel_chanStoreFields {r : ChanReg} {slot : BitVec 4} {v : Nat} (h : IsChannelRegister r slot)
    (hv : v < 2 ^ r.width.bits) : decodeChannel (joinFields (chanStoreFields r slot v)) = .ok (storeChan r slot v) := by
  have ho := r.off.isLt
  have hs := slot.isLt
  have hslot : (r.off.toNat + 2 ^ 4 * (slot.toNat + 2 ^ 4 * (1 + 2 ^ 8 * v))) / 16 =
      slot.toNat + 2 ^ 4 * (1 + 2 ^ 8 * v) := by omega
  have hdata : (r.off.toNat + 2 ^ 4 * (slot.toNat + 2 ^ 4 * (1 + 2 ^ 8 * v))) / 2 ^ 16 = v := by omega
  rw [joinFields_chanStoreFields, decodeChannel, ofNat_toNat_add, ChanReg.ofOff_off, hslot, ofNat_toNat_add]
  dsimp only
  rw [h, Option.isSome_none, if_neg Bool.false_ne_true, if_neg (by omega), if_pos (by omega),
    if_pos ((chanPadding_eq_zero_iff ..).2 (by rwa [hdata])), hdata]

/-! ### The register rows: well-formed, with the fields of their register -/

theorem BusReg.load_spelled (r : BusReg) :
    r.load.wellFormed = true ∧ r.load.fields = (.mmio32, busLoadFields r.addr) := by
  rcases r with r | ⟨d, r⟩
  · cases r <;> exact ⟨rfl, rfl⟩
  · cases d <;> cases r <;> exact ⟨rfl, rfl⟩

theorem BusReg.store_spelled (r : BusReg) (v : Word) :
    (r.store v).wellFormed = true ∧ (r.store v).fields = (.mmio32, busStoreFields r.addr v) := by
  rcases r with r | ⟨d, r⟩
  · cases r <;> exact ⟨rfl, rfl⟩
  · cases d <;> cases r <;> exact ⟨rfl, rfl⟩

theorem loadChan_fields (r : ChanReg) (slot : BitVec 4) :
    (loadChan r slot).fields = (.mmioChannel, chanLoadFields r slot) := by
  cases r <;> rfl

theorem storeChan_fields {r : ChanReg} {v : Nat} (hv : v < 2 ^ r.width.bits) (slot : BitVec 4) :
    (storeChan r slot v).fields = (.mmioChannel, chanStoreFields r slot v) := by
  cases r <;> exact congrArg (fun n => (Form.mmioChannel, chanStoreFields _ slot n)) (Nat.mod_eq_of_lt hv)

theorem loadChan_wellFormed_iff (r : ChanReg) (slot : BitVec 4) :
    (loadChan r slot).wellFormed = true ↔ IsChannelRegister r slot := by
  revert slot
  unfold IsChannelRegister
  cases r <;> decide

theorem storeChan_wellFormed (r : ChanReg) (slot : BitVec 4) (v : Nat) :
    (storeChan r slot v).wellFormed = (loadChan r slot).wellFormed := by
  cases r <;> rfl

/-! ### Operand codes -/

theorem Domain.ofCode_eq_some_iff {n : Nat} {d : Domain} : Domain.ofCode n = some d ↔ n = d.code := by
  refine ⟨fun h => ?_, fun h => by rw [h, Domain.ofCode_code]⟩
  unfold Domain.ofCode at h
  split at h <;> cases h <;> rfl

theorem Store.ofCode_eq_some_iff {n : Nat} {st : Store} : Store.ofCode n = some st ↔ n = st.code := by
  refine ⟨fun h => ?_, fun h => by rw [h, Store.ofCode_code]⟩
  unfold Store.ofCode at h
  split at h <;> cases h <;> rfl

theorem Width.ofCode_eq_some_iff {n : Nat} {w : Width} : Width.ofCode n = some w ↔ n = w.code := by
  refine ⟨fun h => ?_, fun h => by rw [h, Width.ofCode_code]⟩
  unfold Width.ofCode at h
  split at h <;> cases h <;> rfl

theorem SifReg.ofCode_eq_some_iff {n : Nat} {r : SifReg} : SifReg.ofCode n = some r ↔ n = r.code := by
  refine ⟨fun h => ?_, fun h => by rw [h, SifReg.ofCode_code]⟩
  unfold SifReg.ofCode at h
  split at h <;> cases h <;> rfl

theorem Handler.code_ofCode (n : Nat) : (Handler.ofCode n).code = n := by
  unfold Handler.ofCode
  split <;> rfl

theorem Handler.encodable_iff {h : Handler} : h.encodable = true ↔ h.code < 2 ^ 32 := by
  cases h <;> simp [Handler.encodable, Handler.code]

/-! ### Building a command from its operands -/

theorem sifWriteInstr_spelled (side : Domain) (reg : SifReg) (v : Word) :
    (sifWriteInstr side reg v).wellFormed = true ∧
    (sifWriteInstr side reg v).fields = (.command, commandFields .sifWriteRegister [side.code, reg.code, v.toNat]) := by
  cases reg <;> exact ⟨rfl, rfl⟩

theorem fieldsFit_cons_iff {k v : Nat} {fs : List (Nat × Nat)} :
    FieldsFit ((k, v) :: fs) ↔ v < 2 ^ k ∧ FieldsFit fs := by
  simp [FieldsFit]

theorem requireThat_of_true {b : Bool} (h : b = true) (i : Instr) : requireThat b i = some i := if_pos h

/-- The command that operands build is well-formed and has exactly these operands: a code is read back as itself, and a
number that fits its field is not cut. -/
theorem buildCommand_fields {sel : Selector} {vals : List Nat} {i : Instr} (hfit : FieldsFit (sel.layout.zip vals))
    (hb : buildCommand sel vals = some i) : i.wellFormed = true ∧ i.fields = (.command, commandFields sel vals) := by
  unfold buildCommand at hb
  split at hb
  all_goals simp only [Option.bind_eq_some_iff, Option.map_eq_some_iff, Domain.ofCode_eq_some_iff,
    Store.ofCode_eq_some_iff, Width.ofCode_eq_some_iff, SifReg.ofCode_eq_some_iff, Option.some.injEq, requireThat,
    Option.ite_none_right_eq_some, decide_eq_true_eq, reduceCtorEq] at hb
  all_goals simp only [Selector.layout, List.zip_cons_cons, List.zip_nil_left, fieldsFit_cons_iff] at hfit
  -- RegisterRegion, and the two handler registrations
  case h_1 =>
    obtain ⟨d, rfl, st, rfl, hle, rfl⟩ := hb
    exact ⟨decide_eq_true hle, by simp only [Instr.fields, BitVec.toNat_ofNat, Nat.mod_eq_of_lt, hfit]⟩
  case h_2 | h_3 =>
    obtain ⟨d, rfl, hle, rfl⟩ := hb
    simp only [Instr.wellFormed, Instr.fields, BitVec.toNat_ofNat, Nat.mod_eq_of_lt, Handler.encodable_iff,
      Handler.code_ofCode, Bool.and_eq_true, decide_eq_true hle, hfit, and_self]
  -- WriteRegister of the DMA controller, whose data fits the width
  case h_19 =>
    obtain ⟨w, rfl, hlt, rfl⟩ := hb
    simp only [Instr.wellFormed, Instr.fields, BitVec.toNat_ofNat, Nat.mod_eq_of_lt, decide_eq_true hlt, hfit, and_self]
  -- the two SIF register commands
  case h_27 =>
    obtain ⟨side, rfl, reg, rfl, rfl⟩ := hb
    exact ⟨rfl, rfl⟩
  case h_28 =>
    obtain ⟨side, rfl, reg, rfl, rfl⟩ := hb
    simp only [sifWriteInstr_spelled, BitVec.toNat_ofNat, Nat.mod_eq_of_lt, hfit, and_self]
  -- commands without a coded operand
  case h_16 | h_17 | h_20 | h_21 | h_22 | h_23 | h_24 | h_25 | h_26 =>
    subst hb
    simp only [Instr.wellFormed, Instr.fields, BitVec.toNat_ofNat, Nat.mod_eq_of_lt, hfit, decide_true, and_self]
  -- commands whose one coded operand is a domain or a width
  all_goals
    obtain ⟨d, rfl, rfl⟩ := hb
    simp only [Instr.wellFormed, Instr.fields, BitVec.toNat_ofNat, Nat.mod_eq_of_lt, hfit, and_self]

/-! ### The two directions -/

/-- What decodes is well-formed, and its fields spell the number it was decoded from. -/
theorem decodeForm_ok {form : Form} {w : Nat} {i : Instr} (h : decodeForm form w = .ok i) :
    i.wellFormed = true ∧ ∃ fs, i.fields = (form, fs) ∧ joinFields fs = w := by
  cases form with
  | command =>
    obtain ⟨sel, vals, hfit, hb, rfl⟩ := decodeCommand_ok h
    obtain ⟨hwf, hfields⟩ := buildCommand_fields hfit hb
    exact ⟨hwf, _, hfields, rfl⟩
  | mmio32 =>
    rcases decodeBus_ok h with ⟨r, rfl, rfl⟩ | ⟨r, v, rfl, rfl⟩
    · obtain ⟨hwf, hfields⟩ := r.load_spelled
      exact ⟨hwf, _, hfields, rfl⟩
    · obtain ⟨hwf, hfields⟩ := r.store_spelled v
      exact ⟨hwf, _, hfields, rfl⟩
  | mmioChannel =>
    rcases decodeChannel_ok h with ⟨r, slot, hr, rfl, rfl⟩ | ⟨r, slot, v, hr, hv, rfl, rfl⟩
    · exact ⟨(loadChan_wellFormed_iff r slot).2 hr, _, loadChan_fields r slot, rfl⟩
    · exact ⟨(storeChan_wellFormed r slot v).trans ((loadChan_wellFormed_iff r slot).2 hr), _, storeChan_fields hv slot,
        rfl⟩

/-- What a well-formed instruction's fields spell decodes to it. -/
theorem decodeForm_fields {i : Instr} (h : i.wellFormed = true) :
    decodeForm i.fields.1 (joinFields i.fields.2) = .ok i := by
  have hfit := (encodedFits i h).1
  cases i
  -- rows at a full address: the register is the one that stands there
  case ldDpcr | ldDicr | ldDpcr2 | ldDicr2 | ldDmacen | ldDmacinten | ldMscomP | ldSmcomP | ldMsflagP | ldSmflagP | ldCtrlP
      | ldBd6P | ldMscomS | ldSmcomS | ldMsflagS | ldSmflagS | ldCtrlS | ldBd6S =>
    simp only [decodeForm, Instr.fields]
    exact Eq.trans (decodeBus_busLoadFields rfl) rfl
  case stDpcr | stDicr | stDpcr2 | stDicr2 | stDmacen | stDmacinten | stMscomP | stSmcomP | stMsflagP | stSmflagP | stCtrlP
      | stBd6P | stMscomS | stSmcomS | stMsflagS | stSmflagS | stCtrlS | stBd6S =>
    exact Eq.trans (decodeBus_busStoreFields rfl _) rfl
  -- rows at a channel register: a well-formed one names no controller register
  case ldMadr | ldBcr | ldBcrCount | ldChcr | ldTadr =>
    exact Eq.trans (decodeChannel_chanLoadFields ((loadChan_wellFormed_iff ..).1 h)) rfl
  case stMadr v | stBcr v | stBcrCount v | stChcr v | stTadr v =>
    refine Eq.trans (decodeChannel_chanStoreFields ((loadChan_wellFormed_iff ..).1 h) v.isLt) ?_
    simp only [storeChan, BitVec.ofNat_toNat, BitVec.setWidth_eq]
  -- commands: the operands build the command, within the bounds that `wellFormed` states
  case registerRegion | dmaWriteRegister =>
    exact decodeCommand_commandFields hfit rfl (by simpa [buildCommand, requireThat, Instr.wellFormed] using h)
  case registerReadHandler | registerWriteHandler =>
    have hle := (Bool.and_eq_true_iff.1 h).1
    exact decodeCommand_commandFields hfit rfl (by simp [buildCommand, requireThat_of_true hle])
  all_goals exact decodeCommand_commandFields hfit rfl (by simp [buildCommand, sifWriteInstr])

end Sys2Proof

open Sys2Proof

/-- Settles O11: a well-formed instruction's frame spells its fields, and these decode to it. -/
theorem decodeOfEncode : Obligations.DecodeOfEncode := by
  unfold Obligations.DecodeOfEncode
  intro i h
  rw [decode_encode_eq h, decodeForm_fields h]

/-- Settles O12: the fields of what decodes spell the item's number, so its frame is the item. -/
theorem encodeOfDecode : Obligations.EncodeOfDecode := by
  unfold Obligations.EncodeOfDecode
  intro item i h
  have hlen := length_of_decode h
  rw [decode_of_length hlen] at h
  obtain ⟨hwf, fs, hfields, hw⟩ := decodeForm_ok h
  refine ⟨hwf, ?_⟩
  rw [encode, hfields, hw, ← hlen, natToBytes_bytesToNat]
end

section
/-! ## Selectors, slots and register rows (30_encoding.md R123 to R127, R145, R147) -/

namespace Sys2Proof

/-! ### Unassigned selectors, in the decoder -/

theorem Selector.ofCode_eq_none_iff {n : Nat} : Selector.ofCode n = none ↔ n ∉ Selector.all.map Selector.code := by
  simp [Selector.ofCode]

theorem decode_unknownSelector {b : Byte} {bytes : List Byte} (hlen : bytes.length = 21)
    (hb : b.toNat ∉ Selector.all.map Selector.code) :
    decode ⟨.command, b :: bytes⟩ = .error (.unknownSelector b.toNat) := by
  have hfirst : bytesToNat (b :: bytes) % 256 = b.toNat := by
    have := b.isLt
    rw [bytesToNat]
    omega
  have hcommand : decodeCommand (bytesToNat (b :: bytes)) = .error (.unknownSelector b.toNat) := by
    rw [decodeCommand, hfirst, Selector.ofCode_eq_none_iff.2 hb]
  simpa [decode, hlen, frameBytes] using hcommand

/-! ### Slots, offsets and controller addresses -/

theorem CtrlReg.ofAddr_eq_none_iff {a : Word} : CtrlReg.ofAddr a = none ↔ a ∉ CtrlReg.all.map CtrlReg.addr := by
  simp [CtrlReg.ofAddr]

theorem CtrlReg.exists_ofAddr {a : Word} (h : a ∈ CtrlReg.all.map CtrlReg.addr) : ∃ r, CtrlReg.ofAddr a = some r := by
  obtain ⟨r, -, rfl⟩ := List.mem_map.1 h
  exact ⟨r, r.ofAddr_addr⟩

theorem channelOfSlot_eq_none_iff {slot : BitVec 4} : channelOfSlot slot = none ↔ slot = 6 ∨ slot = 7 := by
  revert slot
  decide

namespace Machine

/-! ### Unassigned selectors, at the port -/

theorem step_unknownSelector {s : State} {item : PortItem} {rest : List PortItem} {sel : Nat} (hs : s.Live)
    (hp : s.port = item :: rest) (hd : decode item = .error (.unknownSelector sel)) :
    step s = .next (raise (.unknownCommand sel) (.unassigned item) (s.takeItem.setResult .none)) := by
  simp only [step, hp, show s.fault = none from hs, hd]
  exact runCommand_raised hs rfl

/-! ### Register commands that name no register (41_dma_registers.md R240, 60_exceptions.md R403) -/

theorem chanRegAt_eq_none_iff {off : BitVec 4} {w : Width} :
    chanRegAt off w = none ↔ (off, w) ∉ ChanReg.all.map fun r => (r.off, r.width) := by
  revert off
  cases w <;> decide

/-- Both register commands raise what their address and width decode to (41_dma_registers.md R240). -/
theorem raises_of_dmaTarget_bad {w : Width} {a : Word} {e : Cause} {s : State} (hs : s.Live)
    (h : dmaTarget w a = .bad e) (data : BitVec 64) :
    Raises (.dmaReadRegister w a) e s ∧ Raises (.dmaWriteRegister w a data) e s := by
  constructor
  · exact exec_raised (t := s.setResult .none) hs (by simp only [bodyOf, dmaRead, h, Reply.andThen_raised])
  · exact exec_raised (t := s.setResult .none) hs (by simp only [bodyOf, dmaWrite, h, Reply.noResult, Reply.andThen_raised])

theorem dmaTarget_ctrl_width {w : Width} {a : Word} (ha : a ∈ CtrlReg.all.map CtrlReg.addr) (hw : w ≠ .w32) :
    dmaTarget w a = .bad (.registerDecode a w) := by
  obtain ⟨r, hr⟩ := CtrlReg.exists_ofAddr ha
  rw [dmaTarget, hr]
  exact if_neg hw

theorem dmaTarget_noChannel (w : Width) {a : Word} (ha : a ∉ CtrlReg.all.map CtrlReg.addr)
    (hslot : slotOf a = 6 ∨ slotOf a = 7) : dmaTarget w a = .bad (.channelIndex a) := by
  rw [dmaTarget, CtrlReg.ofAddr_eq_none_iff.2 ha, channelOfSlot_eq_none_iff.2 hslot]

theorem dmaTarget_noRegister {w : Width} {a : Word} (ha : a ∉ CtrlReg.all.map CtrlReg.addr)
    (hslot : ¬(slotOf a = 6 ∨ slotOf a = 7)) (hoff : chanRegAt (offOf a) w = none) :
    dmaTarget w a = .bad (.registerDecode a w) := by
  obtain ⟨c, hc⟩ := Option.ne_none_iff_exists'.1 (mt channelOfSlot_eq_none_iff.1 hslot)
  rw [dmaTarget, CtrlReg.ofAddr_eq_none_iff.2 ha, hc, hoff]

/-! ### Instructions with one body -/

/-- Instructions with the same body leave the same state, but for the name in a fault record. -/
theorem sameEffect_of_bodyOf {i j : Instr} (h : bodyOf i = bodyOf j) (s : State) : SameEffect i j s := by
  cases hs : s.fault with
  | some r =>
    exact ⟨s, s, by rw [exec_eq, runCommand_frozen hs], by rw [exec_eq, runCommand_frozen hs], rfl, rfl⟩
  | none =>
    cases hf : bodyOf j (s.setResult .none) with
    | done v t => exact ⟨_, _, exec_done hs (h ▸ hf), exec_done hs hf, rfl, rfl⟩
    | raised c t => exact ⟨_, _, exec_raised hs (h ▸ hf), exec_raised hs hf, rfl, rfl⟩

theorem bodyOf_loadCtrl (r : CtrlReg) : bodyOf (loadCtrl r) = bodyOf (.readWord .S r.addr) := by
  cases r <;> rfl

theorem bodyOf_storeCtrl (r : CtrlReg) (v : Word) : bodyOf (storeCtrl r v) = bodyOf (.writeWord .S r.addr v) := by
  cases r <;> rfl

theorem bodyOf_loadSif (d : Domain) (r : SifReg) : bodyOf (loadSif d r) = bodyOf (.readWord d (SifReg.addr d r)) := by
  cases d <;> cases r <;> rfl

theorem bodyOf_storeSif (d : Domain) (r : SifReg) (v : Word) :
    bodyOf (storeSif d r v) = bodyOf (.writeWord d (SifReg.addr d r) v) := by
  cases d <;> cases r <;> rfl

/-! ### Enable bits -/

theorem enableBit_eq (s : State) (c : Fin 13) : s.enableBit c =
    if c.val < 7 then s.dpcr0.getLsbD (4 * c.val + 3) else s.dpcr1.getLsbD (4 * (c.val - 7) + 3) := by
  unfold State.enableBit halfOf idxOf
  split <;> rfl

end Machine

end Sys2Proof

open Sys2Proof Sys2Proof.Machine

/-- Settles O38: each clause is one branch of `dmaTarget`, and both commands raise what it answers. -/
theorem dmaRegisterDecodeFaults : Obligations.DmaRegisterDecodeFaults := by
  unfold Obligations.DmaRegisterDecodeFaults
  intro s w a data hs
  refine ⟨fun ha hw => ?_, fun ha hslot => ?_, fun ha h6 h7 hoff => ?_⟩
  · exact raises_of_dmaTarget_bad hs (dmaTarget_ctrl_width ha hw) data
  · exact raises_of_dmaTarget_bad hs (dmaTarget_noChannel w ha hslot) data
  · exact raises_of_dmaTarget_bad hs
      (dmaTarget_noRegister ha (not_or.2 ⟨h6, h7⟩) (chanRegAt_eq_none_iff.2 hoff)) data

/-- Settles O3: the first byte is the selector, so the decoder rejects the item and `step` raises. -/
theorem unassignedSelectorIsRefused : Obligations.UnassignedSelectorIsRefused := by
  unfold Obligations.UnassignedSelectorIsRefused
  intro s b bytes rest hs hlen hp hb
  rw [step_unknownSelector hs hp (decode_unknownSelector hlen hb), takeItem_of_port hp, raise_live (by exact hs)]
  rfl

/-- Settles O13: the decoder runs on each item. -/
theorem writtenItemsDecode : Obligations.WrittenItemsDecode := by
  unfold Obligations.WrittenItemsDecode
  exact ⟨rfl, rfl, rfl, rfl, rfl, rfl⟩

/-- Settles O14: the sixteen slots are listed, and the enable bit is read in the half of its channel. -/
theorem slotTableAndEnableBits : Obligations.SlotTableAndEnableBits := by
  unfold Obligations.SlotTableAndEnableBits
  exact ⟨by decide, fun s c => ⟨enableBit_eq s c, rfl, rfl⟩⟩

/-- Settles O39: each row has the body of its access. -/
theorem registerRowsAreAccesses : Obligations.RegisterRowsAreAccesses := by
  unfold Obligations.RegisterRowsAreAccesses
  intro s v n slot
  have hrow {i j : Instr} (h : bodyOf i = bodyOf j) : SameEffect i j s := sameEffect_of_bodyOf h s
  exact ⟨fun r => ⟨hrow (bodyOf_loadCtrl r), hrow (bodyOf_storeCtrl r v)⟩,
    fun d r => ⟨hrow (bodyOf_loadSif d r), hrow (bodyOf_storeSif d r v)⟩,
    ⟨hrow rfl, hrow rfl⟩, ⟨hrow rfl, hrow rfl⟩, ⟨hrow rfl, hrow rfl⟩, ⟨hrow rfl, hrow rfl⟩, ⟨hrow rfl, hrow rfl⟩⟩
end

section
/-! ## Translation, lookup and the registrations (40_address_space.md R200, R201, R206, R207, R213) -/

namespace Sys2Proof.Machine

/-! ### Translation -/

theorem translate_scratch {va : Word} (h : 0x70000000 ≤ va.toNat ∧ va.toNat < 0x70004000) : translate .P va = va :=
  if_pos h

theorem translate_outside_scratch {va : Word} (h : va.toNat < 0x70000000 ∨ 0x70004000 ≤ va.toNat) :
    translate .P va = va &&& 0x1FFFFFFF := by
  refine if_neg ?_
  simp only [sprBase, sprSize]
  omega

/-! ### Lookup, by the page's entry and the windows -/

section
variable {s : State} {d : Domain} {va : Word}

theorem lookup_of_pageEntry {e : PageEntry} (h : (s.space d).pageEntry (pageOf (translate d va)) = some e) (dir : Dir) :
    lookup d dir va s = .fast e.store (e.off + (translate d va).toNat % Config.pageSize) e.perm := by
  simp only [lookup, h]

theorem lookup_of_find_window {dir : Dir} {w : Window} (h : (s.space d).pageEntry (pageOf (translate d va)) = none)
    (hw : ((s.space d).handlers dir).find? (fun w => w.holds (translate d va).toNat) = some w) :
    lookup d dir va s = .handler w.handler (translate d va) := by
  simp only [lookup, h, hw]

theorem lookup_of_find_nothing {dir : Dir} (h : (s.space d).pageEntry (pageOf (translate d va)) = none)
    (hw : ((s.space d).handlers dir).find? (fun w => w.holds (translate d va).toNat) = none) :
    lookup d dir va s = .unmapped (translate d va) := by
  simp only [lookup, h, hw]

/-- Only an entry of the page gives the fast path. -/
theorem pageEntry_of_lookup_fast {dir : Dir} {st : Store} {off : Nat} {perm : Perm}
    (h : lookup d dir va s = .fast st off perm) :
    ∃ e, (s.space d).pageEntry (pageOf (translate d va)) = some e ∧ e.store = st ∧
      e.off + (translate d va).toNat % Config.pageSize = off ∧ e.perm = perm := by
  cases he : (s.space d).pageEntry (pageOf (translate d va)) with
  | some e =>
    rw [lookup_of_pageEntry he] at h
    cases h
    exact ⟨e, rfl, rfl, rfl, rfl⟩
  | none =>
    cases hw : ((s.space d).handlers dir).find? (fun w => w.holds (translate d va).toNat) with
    | some w => rw [lookup_of_find_window he hw] at h; cases h
    | none => rw [lookup_of_find_nothing he hw] at h; cases h

theorem validCode_iff : validCode d va s = true ↔
    ∃ e, (s.space d).pageEntry (pageOf (translate d va)) = some e ∧ isCodeStore d e.store = true := by
  unfold validCode
  cases (s.space d).pageEntry (pageOf (translate d va)) <;> simp

end

theorem isCodeStore_iff {d : Domain} {st : Store} : isCodeStore d st = true ↔
    st = .bootRom ∨ (d = .P ∧ st = .mainRam) ∨ (d = .S ∧ st = .iopRam) := by
  cases d <;> cases st <;> decide

/-! ### Registration of a region -/

theorem badPage_iff {as : AddrSpace} {mask : Word} {st : Store} {p : Nat} : badPage as mask st p = true ↔
    as.pageEntry p ≠ none ∨ (p &&& mask.toNat) + 4096 > Config.storeSize st := by
  simp [badPage, Config.pageSize, Option.isSome_iff_ne_none]

theorem storePerm_eq (st : Store) : storePerm st = if st = .bootRom then .ro else .rw := by
  cases st <;> rfl

/-- Only the address spaces and the returned value differ. -/
theorem setSpace_setResult_eq (s : State) (d : Domain) (as : AddrSpace) (r : Result) :
    (s.setSpace d as).setResult r =
      { s with asP := (s.setSpace d as).asP, asS := (s.setSpace d as).asS, result := r } := by
  cases d <;> rfl

theorem setSpace_setResult_space_same (s : State) (d : Domain) (as : AddrSpace) (r : Result) :
    ((s.setSpace d as).setResult r).space d = as := by
  rw [State.setResult_space, State.setSpace_space, if_pos rfl]

theorem setSpace_setResult_space_other (s : State) {d d' : Domain} (h : d' ≠ d) (as : AddrSpace) (r : Result) :
    ((s.setSpace d as).setResult r).space d' = s.space d' := by
  rw [State.setResult_space, State.setSpace_space, if_neg h]

section
variable {s : State} {d : Domain} {vstart : Word} {vend : Nat} {mask : Word} {st : Store}

theorem raises_registerRegion_bounds (hs : s.Live)
    (h : vstart.toNat % 4096 ≠ 0 ∨ vend % 4096 ≠ 0 ∨ vend ≤ vstart.toNat) :
    Raises (.registerRegion d vstart vend mask st) (.configWindow d vstart.toNat vend) s :=
  exec_raised (t := s.setResult .none) hs (if_pos h)

theorem raises_registerRegion_page {p : Nat} (hs : s.Live)
    (h : ¬ (vstart.toNat % 4096 ≠ 0 ∨ vend % 4096 ≠ 0 ∨ vend ≤ vstart.toNat))
    (hp : (pagesOf vstart.toNat vend).find? (badPage (s.space d) mask st) = some p) :
    Raises (.registerRegion d vstart vend mask st) (.configPage d p) s := by
  refine exec_raised (t := s.setResult .none) hs ((if_neg h).trans ?_)
  rw [State.setResult_space, hp]

theorem exec_registerRegion_free (hs : s.Live)
    (h : ¬ (vstart.toNat % 4096 ≠ 0 ∨ vend % 4096 ≠ 0 ∨ vend ≤ vstart.toNat))
    (hp : (pagesOf vstart.toNat vend).find? (badPage (s.space d) mask st) = none) :
    exec (.registerRegion d vstart vend mask st) s =
      .next ((s.setSpace d ((s.space d).addRegion ⟨vstart.toNat, vend, mask, st⟩)).setResult .none) := by
  have hbody : bodyOf (.registerRegion d vstart vend mask st) (s.setResult .none) =
      .done .none ((s.setResult .none).setSpace d ((s.space d).addRegion ⟨vstart.toNat, vend, mask, st⟩)) := by
    refine (if_neg h).trans ?_
    rw [State.setResult_space, hp]
  rw [exec_done hs hbody]
  cases d <;> rfl

end

/-! ### Registration of a handler window -/

section
variable {i : Instr} {s : State} {d : Domain} {dir : Dir} {lo hi : Nat} {h : Handler}

theorem any_overlaps_iff {l : List Window} :
    l.any (fun w => w.overlaps lo hi) = true ↔ ∃ w ∈ l, lo < w.hi ∧ w.lo < hi := by
  simp [Window.overlaps]

/-- An empty or overlapping window is refused, in either direction (40_address_space.md R201). -/
theorem raises_registerHandler (hs : s.Live) (hb : bodyOf i = registerHandler d dir lo hi h)
    (hbad : hi ≤ lo ∨ ∃ w ∈ (s.space d).handlers dir, lo < w.hi ∧ w.lo < hi) :
    Raises i (.configWindow d lo hi) s := by
  refine exec_raised (t := s.setResult .none) hs ?_
  rw [hb, registerHandler, State.setResult_space]
  rcases hbad with hempty | hclash
  · exact if_pos hempty
  · rw [if_pos (any_overlaps_iff.2 hclash), ite_self]

/-- Any other window is appended (40_address_space.md R201). -/
theorem exec_registerHandler_free (hs : s.Live) (hb : bodyOf i = registerHandler d dir lo hi h) (hlt : lo < hi)
    (hfree : ¬ ∃ w ∈ (s.space d).handlers dir, lo < w.hi ∧ w.lo < hi) :
    exec i s = .next ((s.setSpace d ((s.space d).addHandler dir ⟨lo, hi, h⟩)).setResult .none) := by
  have hbody : bodyOf i (s.setResult .none) =
      .done .none ((s.setResult .none).setSpace d ((s.space d).addHandler dir ⟨lo, hi, h⟩)) := by
    rw [hb, registerHandler, State.setResult_space, if_neg (not_le.2 hlt), if_neg (mt any_overlaps_iff.1 hfree)]
  rw [exec_done hs hbody]
  cases d <;> rfl

end

theorem addHandler_handlers (as : AddrSpace) (dir dir' : Dir) (w : Window) :
    (as.addHandler dir w).handlers dir' = if dir' = dir then as.handlers dir ++ [w] else as.handlers dir' := by
  cases dir <;> cases dir' <;> rfl

theorem addHandler_regions (as : AddrSpace) (dir : Dir) (w : Window) :
    (as.addHandler dir w).regions = as.regions := by
  cases dir <;> rfl

end Sys2Proof.Machine

open Sys2Proof Sys2Proof.Machine

/-- Settles O15: each clause is a branch of `translate`. -/
theorem translationRule : Obligations.TranslationRule := by
  unfold Obligations.TranslationRule
  intro s va hs
  have hrun (d : Domain) :
      exec (.translateVirtualAddress d va) s = .next { s with result := .word (translate d va) } :=
    exec_done (t := s.setResult .none) hs rfl
  exact ⟨hrun .S, fun hin => by rw [hrun, translate_scratch hin],
    fun hout => by rw [hrun, translate_outside_scratch hout]⟩

/-- Settles O16: the cases are those of `lookup`; in a good address space the window that holds the address is the one
found, and an aligned access ends in its page. -/
theorem lookupRule : Obligations.LookupRule := by
  unfold Obligations.LookupRule
  intro s d dir va
  refine ⟨fun e he => lookup_of_pageEntry he dir, fun hpage => ⟨fun w hw hgood hlo hhi => ?_, fun hnone => ?_⟩, ?_⟩
  · have hholds := Window.holds_iff.2 ⟨hlo, hhi⟩
    exact lookup_of_find_window hpage
      (find?_of_unique hw hholds fun w' hw' hholds' => hgood.window_unique hw hw' hholds hholds')
  · refine lookup_of_find_nothing hpage (List.find?_eq_none.2 fun w hw => ?_)
    have := hnone w hw
    rw [Window.holds_iff]
    omega
  · have hwidth (w : Width) (ha : va.toNat % w.bytes = 0) := aligned_in_page d (aligned_iff.2 ha)
    simp only [List.forall_mem_cons, List.not_mem_nil, false_imp_iff, implies_true, and_true]
    exact ⟨hwidth .w8, hwidth .w16, hwidth .w32, hwidth .w64⟩

/-- Settles O17: the value returned is `validCode`, which tests the page's store. -/
theorem validCodeRegionRule : Obligations.ValidCodeRegionRule := by
  unfold Obligations.ValidCodeRegionRule
  intro s d va hs
  refine ⟨validCode d va s, exec_done (t := s.setResult .none) hs ?_, ?_⟩
  · simp only [bodyOf, validCode, State.setResult_space]
  · simp only [validCode_iff, isCodeStore_iff, pageOf, Config.pageSize]

/-- Settles O18: the check pass finds the lowest bad page of the window, since pages are listed in ascending order; with
none, the added region is the one that gives the entries of the window. -/
theorem registerRegionRule : Obligations.RegisterRegionRule := by
  unfold Obligations.RegisterRegionRule
  intro s d vstart vend mask st hs
  refine ⟨raises_registerRegion_bounds hs, fun hstart hend hlt => ?_⟩
  have hbounds : ¬ (vstart.toNat % 4096 ≠ 0 ∨ vend % 4096 ≠ 0 ∨ vend ≤ vstart.toNat) := by omega
  have hpages {p : Nat} : p ∈ pagesOf vstart.toNat vend ↔ p % 4096 = 0 ∧ vstart.toNat ≤ p ∧ p < vend :=
    mem_pagesOf hstart hend
  refine ⟨fun p hp hbad hfirst => raises_registerRegion_page hs hbounds ?_, fun hfree => ?_⟩
  · refine find?_sorted (pagesOf_sorted _ _) (hpages.2 hp) (badPage_iff.2 hbad) fun p' hp' hlow => ?_
    exact Bool.eq_false_iff.2 (mt badPage_iff.1 (hfirst p' (hpages.1 hp') hlow))
  · have hnone : (pagesOf vstart.toNat vend).find? (badPage (s.space d) mask st) = none :=
      List.find?_eq_none.2 fun p hp => mt badPage_iff.1 (hfree p (hpages.1 hp))
    refine ⟨_, exec_registerRegion_free hs hbounds hnone, fun p hp => ?_, fun p hp hpage => ?_, fun dir => ?_,
      fun d' hd' => setSpace_setResult_space_other s hd' _ _, setSpace_setResult_eq ..⟩
    · rw [setSpace_setResult_space_same, pageEntry_addRegion, if_pos hp.2, storePerm_eq]
    · rw [setSpace_setResult_space_same, pageEntry_addRegion, if_neg fun hin => hp ⟨hpage, hin⟩]
    · rw [setSpace_setResult_space_same]
      cases dir <;> rfl

/-- Settles O19: both commands have one body, `registerHandler`, in the direction they name. -/
theorem registerHandlerRule : Obligations.RegisterHandlerRule := by
  unfold Obligations.RegisterHandlerRule
  intro s d dir lo hi h hs i clash
  have hb : bodyOf i = registerHandler d dir lo.toNat hi h := by cases dir <;> rfl
  refine ⟨raises_registerHandler hs hb, fun hlt hfree => ?_⟩
  refine ⟨_, exec_registerHandler_free hs hb hlt hfree, ?_, fun dir' hdir' => ?_, ?_,
    fun d' hd' => setSpace_setResult_space_other s hd' _ _, setSpace_setResult_eq ..⟩
  · rw [setSpace_setResult_space_same, addHandler_handlers, if_pos rfl]
  · rw [setSpace_setResult_space_same, addHandler_handlers, if_neg hdir']
  · rw [setSpace_setResult_space_same, addHandler_regions]
end

section
/-! ## Reads and writes, by what their lookup reaches (40_address_space.md R205, R208, R209, R211; 20_memory.md R80) -/

namespace Sys2Proof.Machine

@[simp] theorem lookup_setResult (d : Domain) (dir : Dir) (va : Word) (s : State) (r : Result) :
    lookup d dir va (s.setResult r) = lookup d dir va s :=
  lookup_congr d (s.setResult_space r d) dir va

/-! ### Aligned accesses -/

section
variable {d : Domain} {w : Width} {va : Word} {s : State} (ha : va.toNat % w.bytes = 0)
include ha

theorem memRead_fast {st : Store} {off : Nat} {perm : Perm} (hl : lookup d .read va s = .fast st off perm) :
    memRead d w va s = .done (BitVec.ofNat 64 (s.loadLE st off w.bytes)) s := by
  rw [memRead, if_pos (aligned_iff.2 ha), hl]

theorem memRead_handler {h : Handler} {pa : Word} (hl : lookup d .read va s = .handler h pa) :
    memRead d w va s = handlerRead d h w pa s := by
  rw [memRead, if_pos (aligned_iff.2 ha), hl]

theorem memRead_unmapped {pa : Word} (hl : lookup d .read va s = .unmapped pa) :
    memRead d w va s = .done 0 (s.emit (.diag .read d w.bytes va none)) := by
  rw [memRead, if_pos (aligned_iff.2 ha), hl]

theorem memWrite_fast {st : Store} {off : Nat} (hl : lookup d .write va s = .fast st off .rw) (v : BitVec 64) :
    memWrite d w va v s = .done () (s.storeLE st off w.bytes v.toNat) := by
  rw [memWrite, if_pos (aligned_iff.2 ha), hl]

theorem memWrite_handler {h : Handler} {pa : Word} (hl : lookup d .write va s = .handler h pa) (v : BitVec 64) :
    memWrite d w va v s = handlerWrite d h w pa v s := by
  rw [memWrite, if_pos (aligned_iff.2 ha), hl]

theorem memWrite_unmapped {pa : Word} (hl : lookup d .write va s = .unmapped pa) (v : BitVec 64) :
    memWrite d w va v s = .done () (s.emit (.diag .write d w.bytes va (some v))) := by
  rw [memWrite, if_pos (aligned_iff.2 ha), hl]

end

/-! ### Opaque handlers -/

section
variable {d : Domain} {h : Handler} (ho : (∃ n, h = .device n) ∨ (d = .P ∧ h = .dma))
include ho

theorem handlerRead_opaque (w : Width) (pa : Word) (s : State) : handlerRead d h w pa s = deviceRead d h w pa s := by
  obtain ⟨n, rfl⟩ | ⟨rfl, rfl⟩ := ho
  · cases d <;> rfl
  · rfl

theorem handlerWrite_opaque (w : Width) (pa : Word) (v : BitVec 64) (s : State) :
    handlerWrite d h w pa v s = deviceWrite d h w pa v s := by
  obtain ⟨n, rfl⟩ | ⟨rfl, rfl⟩ := ho
  · cases d <;> rfl
  · rfl

end

/-- A free value is cut to its width by the result that holds it. -/
theorem resultOf_drawOf (n : Nat) (w : Width) : resultOf w (drawOf n w) = resultOf w (Config.handlerDraw n) := by
  have hx := (Config.handlerDraw n).isLt
  cases w <;> simp only [resultOf, drawOf, Width.bits, ← BitVec.toNat_inj, Result.byte.injEq, Result.half.injEq,
    Result.word.injEq, Result.double.injEq, BitVec.natCast_eq_ofNat, BitVec.toNat_setWidth, BitVec.toNat_ofNat] <;> omega

/-! ### Values and bytes -/

theorem toNat_append_eq_add {m n : Nat} (x : BitVec m) (y : BitVec n) : (x ++ y).toNat = x.toNat * 2 ^ n + y.toNat := by
  rw [BitVec.toNat_append, ← Nat.shiftLeft_add_eq_or_of_lt y.isLt, Nat.shiftLeft_eq]

section
variable (s : State) (st : Store) (off : Nat)

theorem loadLE_byte_eq : s.loadLE st off 1 = (s.byteAt st off).toNat := rfl

theorem loadLE_half_eq : s.loadLE st off 2 = (s.byteAt st (off + 1) ++ s.byteAt st off).toNat := by
  simp only [State.loadLE, toNat_append_eq_add]
  omega

theorem wordAt_toNat : (s.wordAt st off).toNat = (((s.byteAt st (off + 3)).toNat * 2 ^ 8 +
    (s.byteAt st (off + 2)).toNat) * 2 ^ 8 + (s.byteAt st (off + 1)).toNat) * 2 ^ 8 + (s.byteAt st off).toNat :=
  (toNat_append_eq_add ..).trans (by rw [toNat_append_eq_add, toNat_append_eq_add])

theorem loadLE_word_eq : s.loadLE st off 4 = (s.wordAt st off).toNat := by
  simp only [State.loadLE, wordAt_toNat, Nat.add_assoc, Nat.reduceAdd]
  omega

theorem loadLE_double_eq : s.loadLE st off 8 = (s.wordAt st (off + 4) ++ s.wordAt st off).toNat := by
  rw [toNat_append_eq_add]
  simp only [State.loadLE, wordAt_toNat, Nat.add_assoc, Nat.reduceAdd]
  omega

end

theorem byteBytes_eq (v : BitVec 8) : [v] = natToBytes 1 v.toNat := by
  simp [natToBytes]

theorem halfBytes_eq (v : BitVec 16) : [v.extractLsb' 0 8, v.extractLsb' 8 8] = natToBytes 2 v.toNat := by
  simp only [natToBytes, List.cons.injEq, and_true, ← BitVec.toNat_inj, BitVec.extractLsb'_toNat, BitVec.toNat_ofNat,
    Nat.shiftRight_eq_div_pow]
  omega

theorem wordBytes_eq (v : Word) : wordBytes v = natToBytes 4 v.toNat := by
  simp only [wordBytes, natToBytes, List.cons.injEq, and_true, true_and, ← BitVec.toNat_inj, BitVec.extractLsb'_toNat,
    BitVec.toNat_ofNat, Nat.shiftRight_eq_div_pow]
  omega

theorem doubleBytes_eq (v : BitVec 64) :
    wordBytes (v.extractLsb' 0 32) ++ wordBytes (v.extractLsb' 32 32) = natToBytes 8 v.toNat := by
  simp only [wordBytes, natToBytes, List.cons_append, List.nil_append, List.cons.injEq, and_true, ← BitVec.toNat_inj,
    BitVec.extractLsb'_toNat, BitVec.toNat_ofNat, Nat.shiftRight_eq_div_pow]
  omega

theorem natToBytes_getElem {k v i : Nat} (h : i < (natToBytes k v).length) :
    (natToBytes k v)[i] = BitVec.ofNat 8 (v / 256 ^ i) := by
  induction k generalizing v i with
  | zero => simp at h
  | succ k ih =>
    cases i with
    | zero => simp [natToBytes]
    | succ i =>
      simp only [natToBytes, List.getElem_cons_succ]
      rw [ih, Nat.div_div_eq_div_mul, Nat.pow_succ']

/-- A store command on a read-write page stores the bytes of its value. -/
theorem bytesStored_storeLE (s : State) (st : Store) (off n v : Nat) :
    BytesStored st off (natToBytes n v) s (((s.setResult .none).storeLE st off n v).setResult .none) where
  stored i hi := by
    rw [State.setResult_byteAt, State.byteAt_storeLE _ _ _ _ _ _ (by simpa using hi), natToBytes_getElem]
  outside st' off' hout := by
    rw [natToBytes_length] at hout
    rw [State.setResult_byteAt, State.byteAt_storeLE_outside _ _ _ _ _ _ _ hout, State.setResult_byteAt]
  rest := by
    rw [State.storeLE_eq]
    rfl

/-! ### Read and write commands -/

section
variable {i : Instr} {d : Domain} {w : Width} {va : Word} {s : State}

theorem exec_read_done {v : BitVec 64} {t : State} (hs : s.Live) (hb : bodyOf i = readCommand d w va)
    (hm : memRead d w va (s.setResult .none) = .done v t) : exec i s = .next (t.setResult (resultOf w v)) :=
  exec_done hs (by rw [hb, readCommand, hm, Reply.andThen_done])

theorem exec_write_done {v : BitVec 64} {t : State} (hs : s.Live) (hb : bodyOf i = writeCommand d w va v)
    (hm : memWrite d w va v (s.setResult .none) = .done () t) : exec i s = .next (t.setResult .none) :=
  exec_done hs (by rw [hb, writeCommand, hm, Reply.noResult, Reply.andThen_done])

end

/-! ### Commands whose body is a read -/

section
variable {i : Instr} {d : Domain} {w : Width} {va : Word} {s : State} (hs : s.Live)
  (hb : bodyOf i = readCommand d w va) (ha : va.toNat % w.bytes = 0)
include hs hb ha

theorem exec_read_fast {st : Store} {off : Nat} {perm : Perm} (hl : lookup d .read va s = .fast st off perm) :
    exec i s = .next { s with result := resultOf w (BitVec.ofNat 64 (s.loadLE st off w.bytes)) } := by
  rw [exec_read_done hs hb (memRead_fast ha (by rwa [lookup_setResult])),
    State.loadLE_congr fun i _ => s.setResult_byteAt .none st (off + i)]
  rfl

theorem exec_read_unmapped {pa : Word} (hl : lookup d .read va s = .unmapped pa) :
    exec i s = .next { s with out := s.out ++ [.diag .read d w.bytes va none], result := resultOf w 0 } :=
  exec_read_done hs hb (memRead_unmapped ha (by rwa [lookup_setResult]))

theorem exec_read_opaque {h : Handler} {pa : Word} (ho : (∃ n, h = .device n) ∨ (d = .P ∧ h = .dma))
    (hl : lookup d .read va s = .handler h pa) :
    exec i s = .next { s with draws := s.draws + 1, out := s.out ++ [.handlerRead d h w pa],
                              result := resultOf w (Config.handlerDraw s.draws) } := by
  rw [exec_read_done hs hb ((memRead_handler ha (by rwa [lookup_setResult])).trans (handlerRead_opaque ho ..)),
    State.setResult_draws, resultOf_drawOf]
  rfl

end

/-! ### Commands whose body is a write -/

section
variable {i : Instr} {d : Domain} {w : Width} {va : Word} {v : BitVec 64} {s : State} (hs : s.Live)
  (hb : bodyOf i = writeCommand d w va v) (ha : va.toNat % w.bytes = 0)
include hs hb ha

theorem exec_write_fast {st : Store} {off : Nat} (hl : lookup d .write va s = .fast st off .rw) {bs : List Byte}
    (hbs : bs = natToBytes w.bytes v.toNat) : ∃ t, exec i s = .next t ∧ BytesStored st off bs s t :=
  ⟨_, exec_write_done hs hb (memWrite_fast ha (by rwa [lookup_setResult]) v), hbs ▸ bytesStored_storeLE ..⟩

theorem exec_write_unmapped {pa : Word} (hl : lookup d .write va s = .unmapped pa) :
    exec i s = .next { s with out := s.out ++ [.diag .write d w.bytes va (some v)], result := .none } :=
  exec_write_done hs hb (memWrite_unmapped ha (by rwa [lookup_setResult]) v)

theorem exec_write_opaque {h : Handler} {pa : Word} (ho : (∃ n, h = .device n) ∨ (d = .P ∧ h = .dma))
    (hl : lookup d .write va s = .handler h pa) :
    exec i s = .next { s with out := s.out ++ [.handlerWrite d h w pa v], result := .none } :=
  exec_write_done hs hb ((memWrite_handler ha (by rwa [lookup_setResult]) v).trans (handlerWrite_opaque ho ..))

end

/-! ### What a store leaves -/

theorem BytesStored.live {st : Store} {off : Nat} {bs : List Byte} {s t : State} (h : BytesStored st off bs s t)
    (hs : s.Live) : t.Live := by
  rw [h.rest]
  exact hs

theorem BytesStored.lookup_eq {st : Store} {off : Nat} {bs : List Byte} {s t : State} (h : BytesStored st off bs s t)
    (d : Domain) (dir : Dir) (va : Word) : lookup d dir va t = lookup d dir va s := by
  rw [h.rest]
  exact lookup_congr d (by cases d <;> rfl) dir va

end Sys2Proof.Machine

open Sys2Proof Sys2Proof.Machine

/-- Settles O20: the four commands have a read as their body, and the value of the bytes is the little-endian one. -/
theorem fastReadsAreLittleEndian : Obligations.FastReadsAreLittleEndian := by
  unfold Obligations.FastReadsAreLittleEndian
  intro s d va st off perm hs hl
  refine ⟨?_, fun ha => ?_, fun ha => ?_, fun ha => ?_⟩
  · rw [exec_read_fast (w := .w8) hs rfl (Nat.mod_one _) hl, Width.bytes, loadLE_byte_eq]
    simp [resultOf]
  · rw [exec_read_fast (w := .w16) hs rfl ha hl, Width.bytes, loadLE_half_eq]
    simp [resultOf]
  · rw [exec_read_fast (w := .w32) hs rfl ha hl, Width.bytes, loadLE_word_eq]
    simp [resultOf]
  · rw [exec_read_fast (w := .w64) hs rfl ha hl, Width.bytes, loadLE_double_eq]
    simp [resultOf]

/-- Settles O21: the four commands have a write as their body, and its bytes are those of the value. -/
theorem fastWritesStoreTheirBytes : Obligations.FastWritesStoreTheirBytes := by
  unfold Obligations.FastWritesStoreTheirBytes
  intro s d va st off hs hl
  refine ⟨fun v => exec_write_fast (w := .w8) hs rfl (Nat.mod_one _) hl ?_,
    fun ha v => exec_write_fast (w := .w16) hs rfl ha hl ?_, fun ha v => exec_write_fast (w := .w32) hs rfl ha hl ?_,
    fun ha v => exec_write_fast (w := .w64) hs rfl ha hl (doubleBytes_eq v)⟩
  · rw [BitVec.toNat_setWidth_of_le (by decide)]
    exact byteBytes_eq v
  · rw [BitVec.toNat_setWidth_of_le (by decide)]
    exact halfBytes_eq v
  · rw [BitVec.toNat_setWidth_of_le (by decide)]
    exact wordBytes_eq v

/-- Settles O23: at each width the access is aligned and its lookup unmapped. -/
theorem unmappedAccesses : Obligations.UnmappedAccesses := by
  unfold Obligations.UnmappedAccesses
  intro s d va pa hs
  refine ⟨fun hl => ?_, fun hl => ?_⟩
  · exact ⟨exec_read_unmapped (w := .w8) hs rfl (Nat.mod_one _) hl,
      fun ha => exec_read_unmapped (w := .w16) hs rfl ha hl, fun ha => exec_read_unmapped (w := .w32) hs rfl ha hl,
      fun ha => exec_read_unmapped (w := .w64) hs rfl ha hl⟩
  · exact ⟨fun _ => exec_write_unmapped (w := .w8) hs rfl (Nat.mod_one _) hl,
      fun ha _ => exec_write_unmapped (w := .w16) hs rfl ha hl, fun ha _ => exec_write_unmapped (w := .w32) hs rfl ha hl,
      fun ha _ => exec_write_unmapped (w := .w64) hs rfl ha hl⟩

/-- Settles O28: at each width the handler that is reached is opaque. -/
theorem opaqueHandlerAccesses : Obligations.OpaqueHandlerAccesses := by
  unfold Obligations.OpaqueHandlerAccesses
  intro s d va pa h hs ho
  refine ⟨fun hl => ?_, fun hl => ?_⟩
  · exact ⟨exec_read_opaque (w := .w8) hs rfl (Nat.mod_one _) ho hl,
      fun ha => exec_read_opaque (w := .w16) hs rfl ha ho hl, fun ha => exec_read_opaque (w := .w32) hs rfl ha ho hl,
      fun ha => exec_read_opaque (w := .w64) hs rfl ha ho hl⟩
  · exact ⟨fun _ => exec_write_opaque (w := .w8) hs rfl (Nat.mod_one _) ho hl,
      fun ha _ => exec_write_opaque (w := .w16) hs rfl ha ho hl, fun ha _ => exec_write_opaque (w := .w32) hs rfl ha ho hl,
      fun ha _ => exec_write_opaque (w := .w64) hs rfl ha ho hl⟩

/-- Settles O27: the write stores the byte and no lookup changes, so the read returns it. -/
theorem byteRoundTrip : Obligations.ByteRoundTrip := by
  unfold Obligations.ByteRoundTrip
  intro s d d' va va' b st off perm hs hwrite hread
  obtain ⟨t, ht, hstored⟩ := (fastWritesStoreTheirBytes s d va st off hs hwrite).1 b
  have hread' : lookup d' .read va' t = .fast st off perm := (hstored.lookup_eq ..).trans hread
  obtain ⟨hbyte, -⟩ := fastReadsAreLittleEndian t d' va' st off perm (hstored.live hs) hread'
  exact ⟨t, _, ht, hbyte, congrArg Result.byte (hstored.stored 0 Nat.one_pos)⟩
end

section
/-! ## Quad accesses (40_address_space.md R210) -/

namespace Sys2Proof.Machine

/-! ### The words of a Quad -/

theorem toNat_add_mod_four {va k : Word} (hva : va.toNat % 16 = 0) (hk : k.toNat % 4 = 0) :
    (va + k).toNat % 4 = 0 := by
  rw [BitVec.toNat_add]
  omega

theorem toNat_and_physMask (va : Word) : (va &&& 0x1FFFFFFF).toNat = va.toNat % 2 ^ 29 := by
  rw [BitVec.toNat_and]
  exact Nat.and_two_pow_sub_one_eq_mod va.toNat 29

theorem toNat_translate (d : Domain) (va : Word) : (translate d va).toNat =
    if d = .P ∧ 0x70000000 ≤ va.toNat ∧ va.toNat < 0x70004000 then va.toNat else va.toNat % 2 ^ 29 := by
  cases d
  · by_cases h : 0x70000000 ≤ va.toNat ∧ va.toNat < 0x70004000
    · rw [translate_scratch h, if_pos ⟨rfl, h⟩]
    · rw [translate_outside_scratch (by omega), toNat_and_physMask, if_neg fun hp => h hp.2]
  · rw [if_neg (by simp)]
    exact toNat_and_physMask va

/-- Translation keeps the 16 bytes of a Quad together: the scratch window is aligned to them. -/
theorem toNat_translate_add {va k : Word} (hva : va.toNat % 16 = 0) (hk : k.toNat < 16) (d : Domain) :
    (translate d (va + k)).toNat = (translate d va).toNat + k.toNat := by
  have hadd : (va + k).toNat = va.toNat + k.toNat := by rw [BitVec.toNat_add]; omega
  have hwindow : (0x70000000 ≤ va.toNat + k.toNat ∧ va.toNat + k.toNat < 0x70004000) ↔
      (0x70000000 ≤ va.toNat ∧ va.toNat < 0x70004000) := by omega
  simp only [toNat_translate, hadd, hwindow]
  split
  · rfl
  · omega

theorem toNat_translate_mod {va : Word} (hva : va.toNat % 16 = 0) (d : Domain) : (translate d va).toNat % 16 = 0 := by
  rw [toNat_translate]
  split <;> omega

/-- Every byte of an aligned Quad stands in one page, at its offset past the first, in either direction. -/
theorem lookup_fast_add {s : State} {d : Domain} {dir : Dir} {va k : Word} {st : Store} {off : Nat} {perm : Perm}
    (hva : va.toNat % 16 = 0) (hk : k.toNat < 16) (hl : lookup d dir va s = .fast st off perm) (dir' : Dir) :
    lookup d dir' (va + k) s = .fast st (off + k.toNat) perm := by
  obtain ⟨e, he, rfl, rfl, rfl⟩ := pageEntry_of_lookup_fast hl
  have hadd := toNat_translate_add hva hk d
  have hmod := toNat_translate_mod hva d
  have hpage : pageOf (translate d (va + k)) = pageOf (translate d va) := by
    simp only [pageOf, Config.pageSize, hadd]
    omega
  have hoff : (translate d (va + k)).toNat % Config.pageSize = (translate d va).toNat % Config.pageSize + k.toNat := by
    simp only [Config.pageSize, hadd]
    omega
  rw [← hpage] at he
  rw [lookup_of_pageEntry he, hoff, Nat.add_assoc]

/-! ### Word accesses on domain P do not raise (log 11) -/

theorem handlerRead_P_word (h : Handler) (pa : Word) (s : State) :
    ∃ v t, handlerRead .P h .w32 pa s = .done v t := by
  cases h with
  | dma => exact ⟨_, _, rfl⟩
  | device n => exact ⟨_, _, rfl⟩
  | sif =>
    simp only [handlerRead, sifHandlerRead]
    split
    · exact ⟨_, _, rfl⟩
    · exact ⟨_, _, rfl⟩

theorem handlerWrite_P_word (h : Handler) (pa : Word) (v : BitVec 64) (s : State) :
    ∃ t, handlerWrite .P h .w32 pa v s = .done () t := by
  cases h with
  | dma => exact ⟨_, rfl⟩
  | device n => exact ⟨_, rfl⟩
  | sif =>
    simp only [handlerWrite, sifHandlerWrite]
    split
    · exact ⟨_, rfl⟩
    · exact ⟨_, rfl⟩

theorem setResult_of_eq {s : State} {r : Result} (h : s.result = r) : s.setResult r = s := by
  subst h
  rfl

section
variable {va : Word} (ha : va.toNat % 4 = 0)
include ha

theorem memRead_P_word (s : State) : ∃ v t, memRead .P .w32 va s = .done v t := by
  cases hl : lookup .P .read va s with
  | fast st off perm => exact ⟨_, _, memRead_fast (w := .w32) ha hl⟩
  | handler h pa =>
    rw [memRead_handler (w := .w32) ha hl]
    exact handlerRead_P_word h pa s
  | unmapped pa => exact ⟨_, _, memRead_unmapped (w := .w32) ha hl⟩

theorem memWrite_P_word (v : BitVec 64) (s : State) : ∃ t, memWrite .P .w32 va v s = .done () t := by
  cases hl : lookup .P .write va s with
  | fast st off perm =>
    cases perm
    · exact ⟨_, memWrite_fast (w := .w32) ha hl v⟩
    · exact ⟨_, memWrite_readOnly (w := .w32) ha hl v⟩
  | handler h pa =>
    rw [memWrite_handler (w := .w32) ha hl]
    exact handlerWrite_P_word h pa v s
  | unmapped pa => exact ⟨_, memWrite_unmapped (w := .w32) ha hl v⟩

/-! ### One word of a Quad, and the Word command at its address -/

/-- The Word command leaves what the word's read leaves once the returned value is cleared, with that word returned. -/
theorem exec_readWord_P {s u : State} (hs : s.Live) (hu : s.setResult .none = u) : ∃ v t,
    memRead .P .w32 va u = .done v t ∧ t.Live ∧ t.setResult .none = t ∧
      exec (.readWord .P va) s = .next (t.setResult (.word (v.setWidth 32))) := by
  subst hu
  obtain ⟨v, t, hm⟩ := memRead_P_word ha (s.setResult .none)
  have hframe := memRead_readFrame .P .w32 va (s.setResult .none)
  rw [hm, Reply.state_done] at hframe
  exact ⟨v, t, hm, hframe.keeps.fault.trans hs, setResult_of_eq (congrArg State.result hframe.eq),
    exec_read_done (w := .w32) hs rfl hm⟩

theorem exec_writeWord_P {s u : State} (hs : s.Live) (hu : s.setResult .none = u) (v : Word) : ∃ t,
    memWrite .P .w32 va (v.setWidth 64) u = .done () t ∧ t.Live ∧ t.setResult .none = t ∧
      exec (.writeWord .P va v) s = .next t := by
  subst hu
  obtain ⟨t, hm⟩ := memWrite_P_word ha (v.setWidth 64) (s.setResult .none)
  have hframe := memWrite_writeFrame .P .w32 va (v.setWidth 64) (s.setResult .none)
  rw [hm, Reply.state_done] at hframe
  have hcleared : t.setResult .none = t := setResult_of_eq hframe.result
  exact ⟨t, hm, hframe.keeps.fault.trans hs, hcleared, hcleared ▸ exec_write_done (w := .w32) hs rfl hm⟩

end

/-! ### The body of a Quad -/

section
variable {va : Word} {s s0 s1 s2 s3 : State} (hva : va.toNat % 16 = 0)
include hva

theorem readQuad_of_words {v0 v1 v2 v3 : BitVec 64} (h0 : memRead .P .w32 va s = .done v0 s0)
    (h1 : memRead .P .w32 (va + 4) s0 = .done v1 s1) (h2 : memRead .P .w32 (va + 8) s1 = .done v2 s2)
    (h3 : memRead .P .w32 (va + 12) s2 = .done v3 s3) : readQuad .P va s =
      .done (.quad (v3.setWidth 32 ++ v2.setWidth 32 ++ v1.setWidth 32 ++ v0.setWidth 32)) s3 := by
  simp only [readQuad, quadCheck, if_pos hva, Reply.andThen_done, h0, h1, h2, h3]

theorem writeQuad_of_words {v : BitVec 128} (h0 : memWrite .P .w32 va (quadWord v 0) s = .done () s0)
    (h1 : memWrite .P .w32 (va + 4) (quadWord v 1) s0 = .done () s1)
    (h2 : memWrite .P .w32 (va + 8) (quadWord v 2) s1 = .done () s2)
    (h3 : memWrite .P .w32 (va + 12) (quadWord v 3) s2 = .done () s3) : writeQuad .P va v s = .done .none s3 := by
  simp only [writeQuad, quadCheck, if_pos hva, Reply.andThen_done, Reply.noResult, h0, h1, h2, h3]

end

theorem quadCheck_secondary (va : Word) (s : State) : quadCheck .S va s = .raised (.quadSecondary va) s := rfl

theorem quadCheck_misaligned {va : Word} (hva : va.toNat % 16 ≠ 0) (s : State) :
    quadCheck .P va s = .raised (.misaligned .quad .P 16 va) s :=
  if_neg hva

/-- Both Quad commands raise what their checks raise. -/
theorem raises_of_quadCheck {d : Domain} {va : Word} {e : Cause} {s : State} (hs : s.Live)
    (hc : quadCheck d va (s.setResult .none) = .raised e (s.setResult .none)) (v : BitVec 128) :
    Raises (.readQuad d va) e s ∧ Raises (.writeQuad d va v) e s := by
  constructor
  · exact exec_raised (t := s.setResult .none) hs (by simp only [bodyOf, readQuad, hc, Reply.andThen_raised])
  · exact exec_raised (t := s.setResult .none) hs (by simp only [bodyOf, writeQuad, hc, Reply.andThen_raised])

/-! ### Store commands in sequence -/

/-- Two store commands at consecutive offsets are one of both lists of bytes. -/
theorem BytesStored.append {st : Store} {off : Nat} {bs bs' : List Byte} {s t u : State}
    (h : BytesStored st off bs s t) (k : BytesStored st (off + bs.length) bs' t u) :
    BytesStored st off (bs ++ bs') s u where
  stored i hi := by
    rw [List.length_append] at hi
    rcases Nat.lt_or_ge i bs.length with hlt | hge
    · rw [k.outside st (off + i) (.inr (.inl (by omega))), h.stored i hlt, List.getElem_append_left hlt]
    · have hbyte := k.stored (i - bs.length) (by omega)
      rw [show off + bs.length + (i - bs.length) = off + i by omega] at hbyte
      rw [hbyte, List.getElem_append_right hge]
  outside st' off' hout := by
    rw [List.length_append] at hout
    rw [k.outside st' off' (hout.imp_right (Or.imp (by omega) (by omega))),
      h.outside st' off' (hout.imp_right (Or.imp id (by omega)))]
  rest := by rw [k.rest, h.rest]

theorem exec_writeWord_fast {s : State} {d : Domain} {va : Word} {st : Store} {off : Nat} (hs : s.Live)
    (ha : va.toNat % 4 = 0) (hl : lookup d .write va s = .fast st off .rw) (v : Word) :
    ∃ t, exec (.writeWord d va v) s = .next t ∧ BytesStored st off (wordBytes v) s t :=
  exec_write_fast (w := .w32) hs rfl ha hl (by rw [BitVec.toNat_setWidth_of_le (by decide)]; exact wordBytes_eq v)

theorem memRead_word_fast {s : State} {d : Domain} {va : Word} {st : Store} {off : Nat} {perm : Perm}
    (ha : va.toNat % 4 = 0) (hl : lookup d .read va s = .fast st off perm) :
    memRead d .w32 va s = .done ((s.wordAt st off).setWidth 64) s := by
  rw [memRead_fast (w := .w32) ha hl, Width.bytes, loadLE_word_eq, BitVec.ofNat_toNat]

end Sys2Proof.Machine

open Sys2Proof Sys2Proof.Machine

/-- Settles O25: the checks come first; on P no word raises, and each word of the Quad leaves the state of its Word
command, but for what that returns. -/
theorem quadIsFourWordAccesses : Obligations.QuadIsFourWordAccesses := by
  unfold Obligations.QuadIsFourWordAccesses
  intro s va v hs
  obtain ⟨hread, hwrite⟩ := raises_of_quadCheck hs (quadCheck_secondary va _) v
  refine ⟨hread, hwrite, fun hva => raises_of_quadCheck hs (quadCheck_misaligned hva _) v, fun hva => ⟨?_, ?_⟩⟩
  · obtain ⟨v0, t0, hm0, hs0, hu0, he0⟩ := exec_readWord_P (va := va) (by omega) hs rfl
    obtain ⟨v1, t1, hm1, hs1, hu1, he1⟩ :=
      exec_readWord_P (toNat_add_mod_four hva (k := 4) rfl) (s := t0.setResult (.word _)) hs0 hu0
    obtain ⟨v2, t2, hm2, hs2, hu2, he2⟩ :=
      exec_readWord_P (toNat_add_mod_four hva (k := 8) rfl) (s := t1.setResult (.word _)) hs1 hu1
    obtain ⟨v3, t3, hm3, hs3, -, he3⟩ :=
      exec_readWord_P (toNat_add_mod_four hva (k := 12) rfl) (s := t2.setResult (.word _)) hs2 hu2
    exact ⟨_, _, _, _, he0, he1, he2, he3, hs3, _, _, _, _, rfl, rfl, rfl, rfl,
      exec_done (t := t3) hs (readQuad_of_words hva hm0 hm1 hm2 hm3)⟩
  · obtain ⟨t0, hm0, hs0, hu0, he0⟩ := exec_writeWord_P (va := va) (by omega) hs rfl (v.extractLsb' 0 32)
    obtain ⟨t1, hm1, hs1, hu1, he1⟩ :=
      exec_writeWord_P (toNat_add_mod_four hva (k := 4) rfl) hs0 hu0 (v.extractLsb' 32 32)
    obtain ⟨t2, hm2, hs2, hu2, he2⟩ :=
      exec_writeWord_P (toNat_add_mod_four hva (k := 8) rfl) hs1 hu1 (v.extractLsb' 64 32)
    obtain ⟨t3, hm3, hs3, hu3, he3⟩ :=
      exec_writeWord_P (toNat_add_mod_four hva (k := 12) rfl) hs2 hu2 (v.extractLsb' 96 32)
    refine ⟨t3, ?_, hs3, ?_⟩
    · rw [exec_done (i := .writeQuad .P va v) hs (writeQuad_of_words hva hm0 hm1 hm2 hm3), hu3]
    · rw [execAll_cons_next he0, execAll_cons_next he1, execAll_cons_next he2, execAll_cons_next he3, execAll]

/-- Settles O26: the four words of the Quad stand in one page, so each takes the fast path; the writes are those of
`QuadIsFourWordAccesses`. -/
theorem quadsOnTheFastPath : Obligations.QuadsOnTheFastPath := by
  unfold Obligations.QuadsOnTheFastPath
  intro s va st off perm hs hva hl
  refine ⟨?_, fun hperm v => ?_⟩
  · have hread {k : Word} (hk : k.toNat < 16) (h4 : k.toNat % 4 = 0) : memRead .P .w32 (va + k) (s.setResult .none) =
        .done ((s.wordAt st (off + k.toNat)).setWidth 64) (s.setResult .none) :=
      memRead_word_fast (toNat_add_mod_four hva h4)
        ((lookup_setResult .P .read (va + k) s .none).trans (lookup_fast_add hva hk hl .read))
    have hfirst : memRead .P .w32 va (s.setResult .none) =
        .done ((s.wordAt st off).setWidth 64) (s.setResult .none) := by
      simpa using hread (k := 0) (by decide) rfl
    have hbody := readQuad_of_words hva hfirst (hread (k := 4) (by decide) rfl) (hread (k := 8) (by decide) rfl)
      (hread (k := 12) (by decide) rfl)
    simp only [BitVec.setWidth_setWidth_of_le _ (show 32 ≤ 64 by decide), BitVec.setWidth_eq] at hbody
    exact exec_done (t := s.setResult .none) hs hbody
  · subst hperm
    have hwrite {k : Word} (hk : k.toNat < 16) := lookup_fast_add hva hk hl .write
    have hfirst : lookup .P .write va s = .fast st off .rw := by simpa using hwrite (k := 0) (by decide)
    obtain ⟨t0, he0, hb0⟩ := exec_writeWord_fast hs (by omega) hfirst (v.extractLsb' 0 32)
    obtain ⟨t1, he1, hb1⟩ := exec_writeWord_fast (hb0.live hs) (toNat_add_mod_four hva (k := 4) rfl)
      ((hb0.lookup_eq ..).trans (hwrite (k := 4) (by decide))) (v.extractLsb' 32 32)
    have hb01 := hb0.append hb1
    obtain ⟨t2, he2, hb2⟩ := exec_writeWord_fast (hb01.live hs) (toNat_add_mod_four hva (k := 8) rfl)
      ((hb01.lookup_eq ..).trans (hwrite (k := 8) (by decide))) (v.extractLsb' 64 32)
    have hb012 := hb01.append hb2
    obtain ⟨t3, he3, hb3⟩ := exec_writeWord_fast (hb012.live hs) (toNat_add_mod_four hva (k := 12) rfl)
      ((hb012.lookup_eq ..).trans (hwrite (k := 12) (by decide))) (v.extractLsb' 96 32)
    obtain ⟨-, -, -, hquad⟩ := quadIsFourWordAccesses s va v hs
    obtain ⟨-, t, ht, -, hall⟩ := hquad hva
    rw [execAll_cons_next he0, execAll_cons_next he1, execAll_cons_next he2, execAll_cons_next he3, execAll,
      Option.some.injEq] at hall
    exact ⟨t, ht, hall ▸ hb012.append hb3⟩
end

section
/-! ## The registers of the DMA controller (41_dma_registers.md) -/

namespace Sys2Proof.Machine

/-! ### An instruction that runs as a register command (41_dma_registers.md R240, 40_address_space.md R205) -/

/-- In `s` the body of `i` is that of `j`. -/
def RunsAs (i j : Instr) (s : State) : Prop := bodyOf i (s.setResult .none) = bodyOf j (s.setResult .none)

theorem RunsAs.refl (i : Instr) (s : State) : RunsAs i i s := rfl

/-- Only the body at `s` counts: `sameEffect_of_bodyOf` asks for the same body in every state. -/
theorem RunsAs.sameEffect {i j : Instr} {s : State} (h : RunsAs i j s) : SameEffect i j s := by
  cases hs : s.fault with
  | some r => exact ⟨s, s, by rw [exec_eq, runCommand_frozen hs], by rw [exec_eq, runCommand_frozen hs], rfl, rfl⟩
  | none =>
    cases hj : bodyOf j (s.setResult .none) with
    | done v t => exact ⟨_, _, exec_done hs (h.trans hj), exec_done hs hj, rfl, rfl⟩
    | raised c t => exact ⟨_, _, exec_raised hs (h.trans hj), exec_raised hs hj, rfl, rfl⟩

section
variable {i : Instr} {w : Width} {va pa : Word} {s : State}

theorem runsAs_dmaReadRegister (hb : bodyOf i = readCommand .S w va) (ha : va.toNat % w.bytes = 0)
    (hl : lookup .S .read va s = .handler .dma pa) : RunsAs i (.dmaReadRegister w pa) s := by
  rw [RunsAs, hb, readCommand, memRead_handler ha (by rwa [lookup_setResult])]
  rfl

theorem runsAs_dmaWriteRegister {v : BitVec 64} (hb : bodyOf i = writeCommand .S w va v) (ha : va.toNat % w.bytes = 0)
    (hl : lookup .S .write va s = .handler .dma pa) : RunsAs i (.dmaWriteRegister w pa v) s := by
  rw [RunsAs, hb, writeCommand, memWrite_handler ha (by rwa [lookup_setResult])]
  rfl

/-- A live block answers what the register read answers. -/
theorem exec_of_dmaRead {a : Word} {v : BitVec 64} {t : State} (hs : s.Live) (h : RunsAs i (.dmaReadRegister w a) s)
    (hd : dmaRead w a (s.setResult .none) = .done v t) : exec i s = .next (t.setResult (resultOf w v)) :=
  exec_done hs (h.trans (congrArg (Reply.andThen · fun v s => .done (resultOf w v) s) hd))

theorem exec_of_dmaWrite {a : Word} {data : BitVec 64} {t : State} (hs : s.Live)
    (h : RunsAs i (.dmaWriteRegister w a data) s) (hd : dmaWrite w a data (s.setResult .none) = .done () t) :
    exec i s = .next (t.setResult .none) :=
  exec_done hs (h.trans (congrArg Reply.noResult hd))

end

/-! ### Controller registers -/

theorem dmaTarget_ctrl (r : CtrlReg) : dmaTarget .w32 r.addr = .ctrl r := by
  rw [dmaTarget, r.ofAddr_addr]
  exact if_pos rfl

theorem ctrlAddr_aligned (r : CtrlReg) : r.addr.toNat % Width.w32.bytes = 0 := by
  cases r <;> rfl

/-- The 64 bits that carry a written word hold it in their low half. -/
theorem setWidth_word_data (v : Word) : (v.setWidth 64).setWidth 32 = v := by
  rw [BitVec.setWidth_setWidth_of_le v (by decide), BitVec.setWidth_eq]

theorem resultOf_word (v : Word) : resultOf .w32 (v.setWidth 64) = .word v :=
  congrArg Result.word (setWidth_word_data v)

theorem dmaRead_ctrl (r : CtrlReg) (s : State) : dmaRead .w32 r.addr s = .done ((readCtrl r s).setWidth 64) s := by
  rw [dmaRead, dmaTarget_ctrl]

theorem dmaWrite_ctrl (r : CtrlReg) (v : Word) (s : State) :
    dmaWrite .w32 r.addr (v.setWidth 64) s = .done () (writeCtrl r v s) := by
  rw [dmaWrite, dmaTarget_ctrl, setWidth_word_data]

theorem readCtrl_setResult (r : CtrlReg) (s : State) (x : Result) : readCtrl r (s.setResult x) = readCtrl r s := by
  cases r <;> rfl

section
variable {i : Instr} {r : CtrlReg} {v : Word} {s : State} (hs : s.Live)
include hs

theorem exec_of_runsAs_readCtrl (h : RunsAs i (.dmaReadRegister .w32 r.addr) s) {w : Word} (hw : readCtrl r s = w) :
    exec i s = .next { s with result := .word w } := by
  subst hw
  rw [exec_of_dmaRead hs h (dmaRead_ctrl r _), resultOf_word, readCtrl_setResult]
  rfl

theorem exec_of_runsAs_writeCtrl (h : RunsAs i (.dmaWriteRegister .w32 r.addr (v.setWidth 64)) s) {t : State}
    (hw : writeCtrl r v s = t) : exec i s = .next (t.setResult .none) := by
  subst hw
  rw [exec_of_dmaWrite hs h (dmaWrite_ctrl r v _)]
  cases r <;> rfl

theorem exec_loadCtrl (hl : lookup .S .read r.addr s = .handler .dma r.addr) {w : Word} (hw : readCtrl r s = w) :
    exec (loadCtrl r) s = .next { s with result := .word w } :=
  exec_of_runsAs_readCtrl hs (runsAs_dmaReadRegister (bodyOf_loadCtrl r) (ctrlAddr_aligned r) hl) hw

theorem exec_storeCtrl (hl : lookup .S .write r.addr s = .handler .dma r.addr) {t : State} (hw : writeCtrl r v s = t) :
    exec (storeCtrl r v) s = .next (t.setResult .none) :=
  exec_of_runsAs_writeCtrl hs (runsAs_dmaWriteRegister (bodyOf_storeCtrl r v) (ctrlAddr_aligned r) hl) hw

theorem exec_dmaReadRegister_ctrl (r : CtrlReg) {w : Word} (hw : readCtrl r s = w) :
    exec (.dmaReadRegister .w32 r.addr) s = .next { s with result := .word w } :=
  exec_of_runsAs_readCtrl hs (.refl _ s) hw

theorem exec_dmaWriteRegister_ctrl (r : CtrlReg) {t : State} (hw : writeCtrl r v s = t) :
    exec (.dmaWriteRegister .w32 r.addr (v.setWidth 64)) s = .next (t.setResult .none) :=
  exec_of_runsAs_writeCtrl hs (.refl _ s) hw

end

/-! ### The interrupt latch (41_dma_registers.md R271, R272) -/

theorem Latch.read_eq_word (l : Latch) : l.read = l.word := by
  refine BitVec.eq_of_getLsbD_eq fun i hi => ?_
  simp only [Latch.read, Latch.word, Latch.masterFlag, Latch.force, Latch.masterEnable, Latch.pending, Latch.masks,
    BitVec.getLsbD_or, BitVec.getLsbD_shiftLeft, BitVec.getLsbD_setWidth, BitVec.getLsbD_append]
  by_cases hlow : i < 24
  · simp [hi, hlow, show i < 31 by omega]
  · have hlow' : l.low.getLsbD i = false := l.low.getLsbD_of_ge i (not_lt.1 hlow)
    by_cases hflag : i < 31
    · simp [hi, hlow, hflag, hlow', show i - 24 < 7 by omega, show i - 24 < 32 by omega]
    · obtain rfl : i = 31 := by omega
      simp

theorem Latch.write_eq_afterWrite (l : Latch) (v : Word) : l.write v = l.afterWrite v := rfl

/-- Bits 30 to 24 of the word of a latch are its flags. -/
theorem Latch.word_flags (l : Latch) : l.word.extractLsb' 24 7 = l.flags := by
  rw [Latch.word, BitVec.extractLsb'_append_eq_of_le le_rfl]
  exact BitVec.extractLsb'_append_eq_right

/-- The register of a latch half. -/
def latchReg : Half → CtrlReg
  | .h0 => .dicr
  | .h1 => .dicr2

theorem readCtrl_latchReg (h : Half) (s : State) : readCtrl (latchReg h) s = (s.latch h).word := by
  rw [← Latch.read_eq_word]
  cases h <;> rfl

theorem writeCtrl_latchReg (h : Half) (v : Word) (s : State) :
    writeCtrl (latchReg h) v s = s.setLatch h ((s.latch h).afterWrite v) := by
  rw [← Latch.write_eq_afterWrite]
  cases h <;> rfl

/-! ### Channel registers -/

theorem channelAddr_aligned (r : ChanReg) (slot : BitVec 4) : (channelAddr slot r.off).toNat % r.width.bytes = 0 := by
  revert slot
  cases r <;> decide

theorem slotOf_channelAddr (slot off : BitVec 4) : slotOf (channelAddr slot off) = slot := by
  revert slot off
  decide

theorem offOf_channelAddr (slot off : BitVec 4) : offOf (channelAddr slot off) = off := by
  revert slot off
  decide

theorem chanRegAt_off_width (r : ChanReg) : chanRegAt r.off r.width = some r := by
  cases r <;> decide

theorem dmaTarget_chan {a : Word} {r : ChanReg} {c : Fin 13} (ha : CtrlReg.ofAddr a = none)
    (hc : channelOfSlot (slotOf a) = some c) (ho : offOf a = r.off) : dmaTarget r.width a = .chan r c := by
  rw [dmaTarget, ha, hc, ho, chanRegAt_off_width]

theorem dmaTarget_channelAddr {slot : BitVec 4} {r : ChanReg} {c : Fin 13} (hr : IsChannelRegister r slot)
    (hc : channelOfSlot slot = some c) : dmaTarget r.width (channelAddr slot r.off) = .chan r c :=
  dmaTarget_chan hr (by rwa [slotOf_channelAddr]) (offOf_channelAddr slot r.off)

/-- CHCR, TADR and BCR.count of every slot that names a channel are channel registers; at slot 15 MADR and BCR are not
(30_encoding.md R122, R126). -/
theorem isChannelRegister_of_slot {r : ChanReg} {slot : BitVec 4} {c : Fin 13} (hc : channelOfSlot slot = some c)
    (h15 : r = .madr ∨ r = .bcr → slot ≠ 15) : IsChannelRegister r slot := by
  have h7 : slot ≠ 7 := fun h => by
    rw [channelOfSlot_eq_none_iff.2 (.inr h)] at hc
    cases hc
  rw [← loadChan_wellFormed_iff]
  cases r <;> simp_all [loadChan, Instr.wellFormed, slotHasLowRegs, slotHasHighRegs]

/-- What a read of a channel register returns (41_dma_registers.md R241 to R249). -/
def chanResult (r : ChanReg) (ch : Channel) : Result :=
  match r with
  | .madr => .word ch.base
  | .bcr => .word (ch.count ++ ch.size)
  | .bcrCount => .half ch.count
  | .chcr => .word ch.control
  | .tadr => .word ch.tag

theorem dmaRead_chan {a : Word} {r : ChanReg} {c : Fin 13} (ht : dmaTarget r.width a = .chan r c) (s : State) :
    dmaRead r.width a s = .done ((readChan r (s.chan c)).setWidth 64) s := by
  rw [dmaRead, ht]

theorem dmaWrite_chan {a : Word} {r : ChanReg} {c : Fin 13} (ht : dmaTarget r.width a = .chan r c) (data : BitVec 64)
    (s : State) : dmaWrite r.width a data s = .done () (s.setChan c (writeChan r (data.setWidth 32) (s.chan c))) := by
  rw [dmaWrite, ht]

theorem resultOf_readChan (r : ChanReg) (ch : Channel) :
    resultOf r.width ((readChan r ch).setWidth 64) = chanResult r ch := by
  cases r
  case bcrCount => exact congrArg Result.half (by
    rw [readChan, BitVec.setWidth_setWidth_of_le _ (by decide), BitVec.setWidth_setWidth_of_le _ (by decide),
      BitVec.setWidth_eq])
  all_goals exact resultOf_word _

theorem writeChan_word (r : ChanReg) (v : Word) (ch : Channel) :
    writeChan r ((v.setWidth 64).setWidth 32) ch = writeChan r v ch := by
  rw [setWidth_word_data]

theorem writeChan_bcrCount (n : BitVec 16) (ch : Channel) :
    writeChan .bcrCount ((n.setWidth 64).setWidth 32) ch = { ch with count := n } := by
  have hn : ((n.setWidth 64).setWidth 32).extractLsb' 0 16 = n := by
    rw [BitVec.setWidth_setWidth_of_le n (by decide), BitVec.extractLsb'_setWidth_of_le (by decide),
      BitVec.extractLsb'_eq_self]
  rw [writeChan, hn]

section
variable {i : Instr} {r : ChanReg} {c : Fin 13} {a : Word} {data : BitVec 64} {s : State} (hs : s.Live)
  (ht : dmaTarget r.width a = .chan r c)
include hs ht

theorem exec_of_runsAs_readChan (h : RunsAs i (.dmaReadRegister r.width a) s) :
    exec i s = .next { s with result := chanResult r (s.chan c) } := by
  rw [exec_of_dmaRead hs h (dmaRead_chan ht _), resultOf_readChan]
  rfl

theorem exec_of_runsAs_writeChan (h : RunsAs i (.dmaWriteRegister r.width a data) s) {ch : Channel}
    (hw : writeChan r (data.setWidth 32) (s.chan c) = ch) :
    exec i s = .next { s with ch := s.ch.set c ch, result := .none } := by
  subst hw
  rw [exec_of_dmaWrite hs h (dmaWrite_chan ht data _)]
  rfl

end

/-! ### A step that ends its transfer (42_dma_transfer.md R305, R313, R323, R330) -/

theorem State.zeroCount_of_count {s : State} {c : Fin 13} (h : (s.chan c).count = 0) : s.zeroCount c = s := by
  rw [State.zeroCount, ← h]
  exact congrArg (fun ch => { s with ch := ch }) (Vector.set_getElem_self ..)

theorem State.zeroCount_eq_setChan (c : Fin 13) (s : State) :
    s.zeroCount c = s.setChan c { s.chan c with count := 0 } := rfl

theorem State.zeroCount_chan_count (c : Fin 13) (s : State) : ((s.zeroCount c).chan c).count = 0 := by
  simp [State.zeroCount_eq_setChan]

theorem stepChannel_of_endsNow {c : Fin 13} {s : State} (h : EndsNow c s) :
    stepChannel c s = .done () (endTransfer c (s.zeroCount c)) := by
  obtain ⟨hk, hcount⟩ | ⟨hk, hcount, hlast⟩ := h
  · simp only [stepChannel, hk, streamStep]
    by_cases h0 : (s.chan c).count = 0
    · rw [if_pos h0, State.zeroCount_of_count h0]
    · have h1 : (s.chan c).count - 1 = 0 := by bv_omega
      have hz : s.setChan c { s.chan c with count := (s.chan c).count - 1 } = s.zeroCount c := by
        rw [h1]
        rfl
      rw [if_neg h0, hz, if_pos (State.zeroCount_chan_count c s)]
  · rw [State.zeroCount_of_count hcount]
    rcases hk with hk | hk
    · simp [stepChannel, hk, outStep, hcount, hlast]
    · simp [stepChannel, hk, inStep, hcount, hlast]

theorem endTransfer_eligible {c c' : Fin 13} (hc : c' ≠ c) (s : State) :
    (endTransfer c s).eligible c' = s.eligible c' := by
  simp [State.eligible, State.enableBit, endTransfer, hc]

theorem zeroCount_eligible (c c' : Fin 13) (s : State) : (s.zeroCount c).eligible c' = s.eligible c' := by
  by_cases hc : c' = c <;> simp [State.zeroCount_eq_setChan, State.eligible, State.enableBit, hc]

theorem exec_dmaRun_of_endsNow {c : Fin 13} {s : State} (hs : s.Live) (ho : OnlyEligible c s) (he : EndsNow c s)
    (n : Nat) : exec (.dmaRun n) s = .next (endTransfer c ((s.setResult .none).zeroCount c)) := by
  have hstep : stepChannel c (s.setResult .none) = _ := stepChannel_of_endsNow he
  have ho' : OnlyEligible c (s.setResult .none) := fun c' => (s.setResult_eligible .none c').trans (ho c')
  have hrun := runChannels_only ho' fun c' hc => by
    rw [hstep, Reply.state_done, endTransfer_eligible hc.ne', zeroCount_eligible, ho' c', decide_eq_false hc.ne']
  rw [exec_done (i := .dmaRun n) hs (congrArg Reply.noResult (hrun.trans hstep))]
  exact congrArg Host.Outcome.next (setResult_of_eq (endTransfer_sameResult c _))

/-- The end of a transfer does not look at DMACEN or DMACINTEN, and keeps both (41_dma_registers.md R263, R264). -/
theorem endTransfer_with_enables (c : Fin 13) (s : State) (x y : Word) :
    endTransfer c { s with dmacen := x, dmacinten := y } = { endTransfer c s with dmacen := x, dmacinten := y } := by
  unfold endTransfer
  cases halfOf c <;> rfl

/-- Eligibility is read from CHCR and the two words of DPCR (41_dma_registers.md R262, 42_dma_transfer.md R300). -/
theorem eligible_eq (s : State) (c : Fin 13) : s.eligible c = ((s.chan c).control.getLsbD 24 &&
    if c.val < 7 then s.dpcr0.getLsbD (4 * c.val + 3) else s.dpcr1.getLsbD (4 * (c.val - 7) + 3)) := by
  rw [State.eligible, enableBit_eq]
  rfl

end Sys2Proof.Machine

open Sys2Proof Sys2Proof.Machine

/-- Settles O34: the word that was read holds the flags of the read in bits 30 to 24, and the write clears those. -/
theorem latchReadModifyWriteHazard : Obligations.LatchReadModifyWriteHazard := by
  unfold Obligations.LatchReadModifyWriteHazard
  intro s r s' h v hs hs' a hread hv
  have ha : a = (latchReg h).addr := by cases h <;> rfl
  rw [ha] at hread ⊢
  rw [exec_dmaReadRegister_ctrl hs _ (readCtrl_latchReg h s)] at hread
  cases hread
  cases hv
  refine ⟨_, exec_dmaWriteRegister_ctrl hs' _ (writeCtrl_latchReg h _ s'), ?_⟩
  rw [State.setResult_latch, State.setLatch_latch, if_pos rfl]
  refine ⟨rfl, fun n hn => ?_⟩
  simp [Latch.afterWrite, Latch.word_flags, hn]

/-- Settles O29: each access runs as the register command at the translated address. -/
theorem dmaHandlerIsRegisterCommand : Obligations.DmaHandlerIsRegisterCommand := by
  unfold Obligations.DmaHandlerIsRegisterCommand
  intro s va pa
  refine ⟨fun hl => ?_, fun hl => ?_⟩
  · have hread (w : Width) {i : Instr} (hb : bodyOf i = readCommand .S w va) (ha : va.toNat % w.bytes = 0) :=
      (runsAs_dmaReadRegister hb ha hl).sameEffect
    exact ⟨hread .w8 rfl (Nat.mod_one _), hread .w16 rfl, hread .w32 rfl, hread .w64 rfl⟩
  · have hwrite (w : Width) {i : Instr} {v : BitVec 64} (hb : bodyOf i = writeCommand .S w va v)
        (ha : va.toNat % w.bytes = 0) := (runsAs_dmaWriteRegister hb ha hl).sameEffect
    exact ⟨fun _ => hwrite .w8 rfl (Nat.mod_one _), fun ha _ => hwrite .w16 rfl ha, fun ha _ => hwrite .w32 rfl ha,
      fun ha _ => hwrite .w64 rfl ha⟩

/-- Settles O31: each row and each command reaches its register; neither eligibility nor the end of a transfer looks
at DMACEN or DMACINTEN. -/
theorem plainControllerRegisters : Obligations.PlainControllerRegisters := by
  unfold Obligations.PlainControllerRegisters
  intro s v hs
  have hread (r : CtrlReg) := exec_dmaReadRegister_ctrl hs r (w := readCtrl r s) rfl
  have hwrite (r : CtrlReg) := exec_dmaWriteRegister_ctrl hs r (v := v) rfl
  refine ⟨fun hl => exec_loadCtrl (r := .dpcr) hs hl rfl, fun hl => exec_loadCtrl (r := .dpcr2) hs hl rfl,
    fun hl => exec_loadCtrl (r := .dmacen) hs hl rfl, fun hl => exec_loadCtrl (r := .dmacinten) hs hl rfl,
    fun hl => exec_storeCtrl (r := .dpcr) hs hl rfl, fun hl => exec_storeCtrl (r := .dpcr2) hs hl rfl,
    fun hl => exec_storeCtrl (r := .dmacen) hs hl rfl, fun hl => exec_storeCtrl (r := .dmacinten) hs hl rfl,
    hread .dpcr, hread .dpcr2, hread .dmacen, hread .dmacinten, hwrite .dpcr, hwrite .dpcr2, hwrite .dmacen,
    hwrite .dmacinten, fun x y c => eligible_eq _ c, fun x y c => ?_⟩
  have helig (c' : Fin 13) : ({ s with dmacen := x, dmacinten := y } : State).eligible c' = s.eligible c' := by
    rw [eligible_eq, eligible_eq]
    rfl
  refine ⟨helig c, fun n ho he => ⟨_, exec_dmaRun_of_endsNow hs ho he n, ?_⟩⟩
  have hrun := exec_dmaRun_of_endsNow (s := { s with dmacen := x, dmacinten := y }) hs
    (fun c' => (helig c').trans (ho c')) he n
  exact hrun.trans (congrArg Host.Outcome.next (endTransfer_with_enables c ((s.setResult .none).zeroCount c) x y))

/-- Settles O32: each row and each command reaches its half of the latch. -/
theorem interruptLatchRegisters : Obligations.InterruptLatchRegisters := by
  unfold Obligations.InterruptLatchRegisters
  intro s v hs
  have hread (h : Half) := readCtrl_latchReg h s
  have hwrite (h : Half) := writeCtrl_latchReg h v s
  exact ⟨fun hl => exec_loadCtrl (r := .dicr) hs hl (hread .h0),
    fun hl => exec_loadCtrl (r := .dicr2) hs hl (hread .h1),
    fun hl => exec_storeCtrl (r := .dicr) hs hl (hwrite .h0), fun hl => exec_storeCtrl (r := .dicr2) hs hl (hwrite .h1),
    exec_dmaReadRegister_ctrl hs .dicr (hread .h0), exec_dmaReadRegister_ctrl hs .dicr2 (hread .h1),
    exec_dmaWriteRegister_ctrl hs .dicr (hwrite .h0), exec_dmaWriteRegister_ctrl hs .dicr2 (hwrite .h1)⟩

/-- Settles O33: the write clears both flags and stores 0, so the latch reads 0. -/
theorem writeOneToClearLaw : Obligations.WriteOneToClearLaw := by
  unfold Obligations.WriteOneToClearLaw
  intro s h hs hflags a
  have ha : a = (latchReg h).addr := by cases h <;> rfl
  have hzero : (s.latch h).afterWrite 0x05000000 = ⟨0, 0⟩ := by
    rw [Latch.afterWrite, hflags]
    decide
  have hwrite := exec_dmaWriteRegister_ctrl hs (latchReg h) (writeCtrl_latchReg h 0x05000000 s)
  rw [hzero] at hwrite
  have hlatch : ((s.setLatch h ⟨0, 0⟩).setResult .none).latch h = ⟨0, 0⟩ := by simp
  rw [ha]
  refine ⟨_, _, hwrite, ?_, ?_, ?_, exec_dmaReadRegister_ctrl ?_ _ (readCtrl_latchReg h _), ?_⟩
  · rw [hlatch]
  · rw [hlatch]
  · rw [hlatch]
    decide
  · simpa [State.Live] using hs
  · simp only [hlatch]
    decide

/-- Settles O35: each row reads its register of the channel that its slot names. -/
theorem channelRegisterReads : Obligations.ChannelRegisterReads := by
  unfold Obligations.ChannelRegisterReads
  intro s slot c hs hc
  have hread (r : ChanReg) {i : Instr} (hb : bodyOf i = readCommand .S r.width (channelAddr slot r.off))
      (h15 : r = .madr ∨ r = .bcr → slot ≠ 15)
      (hl : lookup .S .read (channelAddr slot r.off) s = .handler .dma (channelAddr slot r.off)) :
      exec i s = .next { s with result := chanResult r (s.chan c) } :=
    exec_of_runsAs_readChan hs (dmaTarget_channelAddr (isChannelRegister_of_slot hc h15) hc)
      (runsAs_dmaReadRegister hb (channelAddr_aligned r slot) hl)
  refine ⟨fun h15 => hread .madr rfl fun _ => h15, fun hinv => ?_, fun h15 => hread .bcr rfl fun _ => h15,
    hread .bcrCount rfl (by simp), hread .chcr rfl (by simp), hread .tadr rfl (by simp)⟩
  have hbase := hinv.base_masked c
  refine BitVec.eq_of_toNat_eq ?_
  rw [BitVec.extractLsb'_toNat, Nat.shiftRight_eq_div_pow, Nat.div_eq_of_lt hbase]
  rfl

/-- Settles O36: each row writes its register of the channel that its slot names. -/
theorem channelRegisterWrites : Obligations.ChannelRegisterWrites := by
  unfold Obligations.ChannelRegisterWrites
  intro s slot c v n hs hc
  have hwrite (r : ChanReg) {i : Instr} {data : BitVec 64} {ch : Channel}
      (hb : bodyOf i = writeCommand .S r.width (channelAddr slot r.off) data)
      (hw : writeChan r (data.setWidth 32) (s.chan c) = ch) (h15 : r = .madr ∨ r = .bcr → slot ≠ 15)
      (hl : lookup .S .write (channelAddr slot r.off) s = .handler .dma (channelAddr slot r.off)) :
      exec i s = .next { s with ch := s.ch.set c ch, result := .none } :=
    exec_of_runsAs_writeChan hs (dmaTarget_channelAddr (isChannelRegister_of_slot hc h15) hc)
      (runsAs_dmaWriteRegister hb (channelAddr_aligned r slot) hl) hw
  exact ⟨fun h15 => hwrite .madr rfl (writeChan_word .madr v _) fun _ => h15,
    fun h15 => hwrite .bcr rfl (writeChan_word .bcr v _) fun _ => h15,
    hwrite .bcrCount rfl (writeChan_bcrCount n _) (by simp), hwrite .chcr rfl (writeChan_word .chcr v _) (by simp),
    hwrite .tadr rfl (writeChan_word .tadr v _) (by simp)⟩

/-- Settles O37: the offset and the width select the register, and the slot field the channel. -/
theorem channelRegisterCommands : Obligations.ChannelRegisterCommands := by
  unfold Obligations.ChannelRegisterCommands
  intro s a v n c hs ha hc
  have htarget (r : ChanReg) (ho : a.extractLsb' 0 4 = r.off) : dmaTarget r.width a = .chan r c :=
    dmaTarget_chan (CtrlReg.ofAddr_eq_none_iff.2 ha) hc ho
  have hread (r : ChanReg) (ho : a.extractLsb' 0 4 = r.off) :=
    exec_of_runsAs_readChan hs (htarget r ho) (.refl _ s)
  have hwrite (r : ChanReg) (ho : a.extractLsb' 0 4 = r.off) {data : BitVec 64} {ch : Channel}
      (hw : writeChan r (data.setWidth 32) (s.chan c) = ch) :=
    exec_of_runsAs_writeChan hs (htarget r ho) (.refl _ s) hw
  exact ⟨fun ho => ⟨hread .madr ho, hwrite .madr ho (writeChan_word .madr v _)⟩,
    fun ho => ⟨hread .bcr ho, hwrite .bcr ho (writeChan_word .bcr v _)⟩,
    fun ho => ⟨hread .bcrCount ho, hwrite .bcrCount ho (writeChan_bcrCount n _)⟩,
    fun ho => ⟨hread .chcr ho, hwrite .chcr ho (writeChan_word .chcr v _)⟩,
    fun ho => ⟨hread .tadr ho, hwrite .tadr ho (writeChan_word .tadr v _)⟩⟩
end

section
/-! ## The steps of the transfer engine and `Run` (42_dma_transfer.md R300 to R331) -/

namespace Sys2Proof.Machine

/-! ### `Run` is its loop (42_dma_transfer.md R300) -/

/-- The cause of the raise that ended a part, if one did. -/
def Reply.cause {α : Type} : Reply α → Option Cause
  | .done _ _ => none
  | .raised c _ => some c

/-- The steps that the loop of `Run` makes, each channel tested when it is reached. -/
theorem runSteps_runChannels (cs : List (Fin 13)) (s : State) :
    RunSteps cs s (runChannels cs s).state (runChannels cs s).cause := by
  induction cs generalizing s with
  | nil => exact .finished s
  | cons c cs ih =>
    rw [runChannels]
    cases hc : s.eligible c with
    | false => exact .passed hc (ih s)
    | true =>
      rw [if_pos rfl]
      cases hstep : stepChannel c s with
      | done v u => exact .stepped hc hstep (ih u)
      | raised e t => exact .stopped hc hstep

section
variable {s t : State} (hs : s.Live)
include hs

theorem exec_dmaRun_done (h : runChannels allChannels (s.setResult .none) = .done () t) (n : Nat) :
    exec (.dmaRun n) s = .next t := by
  have hresult := runChannels_sameResult allChannels (s.setResult .none)
  rw [h] at hresult
  rw [exec_done (i := .dmaRun n) hs (congrArg Reply.noResult h)]
  exact congrArg Host.Outcome.next (setResult_of_eq hresult)

theorem exec_dmaRun_raised {e : Cause} (h : runChannels allChannels (s.setResult .none) = .raised e t) (n : Nat) :
    exec (.dmaRun n) s = .next { t with fault := raisedBy (.dmaRun n) e } :=
  exec_raised (i := .dmaRun n) hs (congrArg Reply.noResult h)

/-- A live block's `Run` leaves what its loop leaves, with the fault of a raise recorded. -/
theorem exec_dmaRun (n : Nat) : exec (.dmaRun n) s =
    .next { (runChannels allChannels (s.setResult .none)).state with
      fault := (runChannels allChannels (s.setResult .none)).cause.bind (raisedBy (.dmaRun n)) } := by
  have hfault := (runChannels_keeps allChannels (s.setResult .none)).fault.trans hs
  cases hr : runChannels allChannels (s.setResult .none) with
  | done v t =>
    rw [hr, Reply.state_done] at hfault
    have ht : t = { t with fault := none } := by rw [← hfault]
    exact (exec_dmaRun_done hs hr n).trans (congrArg Host.Outcome.next ht)
  | raised e t => exact exec_dmaRun_raised hs hr n

theorem exec_dmaRun_none (h : ∀ c, s.eligible c = false) (n : Nat) :
    exec (.dmaRun n) s = .next { s with result := .none } :=
  exec_dmaRun_done hs (runChannels_none allChannels fun c _ => (s.setResult_eligible .none c).trans (h c)) n

/-- A `Run` whose only step makes no later channel eligible is that step. -/
theorem exec_dmaRun_only {c : Fin 13} (ho : OnlyEligible c s) (hstep : stepChannel c (s.setResult .none) = .done () t)
    (hlater : ∀ c', c < c' → t.eligible c' = false) (n : Nat) : exec (.dmaRun n) s = .next t := by
  have ho' : OnlyEligible c (s.setResult .none) := fun c' => (s.setResult_eligible .none c').trans (ho c')
  exact exec_dmaRun_done hs ((runChannels_only ho' (by rwa [hstep])).trans hstep) n

end

theorem StepLeaves.of_step {c : Fin 13} {s t : State} (hs : s.Live)
    (hstep : stepChannel c (s.setResult .none) = .done () t) (hothers : ∀ c', c' ≠ c → t.eligible c' = s.eligible c') :
    StepLeaves c s t :=
  ⟨hstep, fun ho => exec_dmaRun_only hs ho hstep fun c' hc => by
    rw [hothers c' hc.ne', ho c', decide_eq_false hc.ne']⟩

theorem StepRaises.of_step {c : Fin 13} {e : Cause} {s t : State} (hs : s.Live)
    (hstep : stepChannel c (s.setResult .none) = .raised e t) : StepRaises c e s t := by
  refine ⟨hstep, fun hl => exec_dmaRun_raised hs (runChannels_raised ?_ hstep)⟩
  exact ⟨(s.setResult_eligible .none c).trans hl.1, fun c' hc => (s.setResult_eligible .none c').trans (hl.2 c' hc)⟩

/-- A step that changes nothing leaves what `Run` starts its steps from. -/
theorem StepLeaves.of_stall {c : Fin 13} {s : State} (hs : s.Live)
    (hstep : stepChannel c (s.setResult .none) = .done () (s.setResult .none)) :
    StepLeaves c s { s with result := .none } :=
  .of_step hs hstep fun c' _ => s.setResult_eligible .none c'

/-! ### What a step of one channel leaves alone -/

/-- The registers of the controller that the engine tests or sets are the same (10_state.md R40 to R47). -/
structure SameController (s t : State) : Prop where
  ch : t.ch = s.ch
  dpcr0 : t.dpcr0 = s.dpcr0
  dpcr1 : t.dpcr1 = s.dpcr1
  latch0 : t.latch0 = s.latch0
  latch1 : t.latch1 = s.latch1

theorem SameController.refl (s : State) : SameController s s := ⟨rfl, rfl, rfl, rfl, rfl⟩

theorem SameController.chan {s t : State} (h : SameController s t) (c : Fin 13) : t.chan c = s.chan c := by
  rw [State.chan, h.ch, State.chan]

theorem SameController.eligible {s t : State} (h : SameController s t) (c : Fin 13) : t.eligible c = s.eligible c := by
  rw [eligible_eq, eligible_eq, h.chan, h.dpcr0, h.dpcr1]

theorem ReadFrame.sif {s t : State} (h : ReadFrame s t) : t.sif = s.sif := (congrArg State.sif h.eq :)

theorem ReadFrame.sameController {s t : State} (h : ReadFrame s t) : SameController s t := by
  constructor <;> rw [h.eq]

theorem setFifo_sameController (s : State) (side : FifoSide) (ws : List Word) : SameController s (s.setFifo side ws) :=
  ⟨by simp, by simp, by simp, by simp, by simp⟩

theorem append_sameController (s : State) (side : FifoSide) (ws : List Word) : SameController s (s.append side ws) :=
  setFifo_sameController s side (s.fifo side ++ ws)

theorem setChan_eligible {c c' : Fin 13} (hc : c' ≠ c) (s : State) (v : Channel) :
    (s.setChan c v).eligible c' = s.eligible c' := by
  simp [State.eligible, State.enableBit, hc]

theorem emit_sameController (s : State) (e : Event) : SameController s (s.emit e) := ⟨rfl, rfl, rfl, rfl, rfl⟩

theorem handlerWrite_sameController {h : Handler} (hh : h ≠ .dma) (d : Domain) (w : Width) (pa : Word) (v : BitVec 64)
    (s : State) : SameController s (handlerWrite d h w pa v s).state := by
  cases h with
  | dma => exact absurd rfl hh
  | device n =>
    rw [handlerWrite_opaque (.inl ⟨n, rfl⟩)]
    exact emit_sameController s _
  | sif =>
    simp only [handlerWrite, sifHandlerWrite]
    split
    · split
      · exact ⟨rfl, rfl, rfl, rfl, rfl⟩
      · exact .refl s
    · exact emit_sameController s _

/-- A write that does not reach the controller's registers leaves them alone. -/
theorem memWrite_sameController {d : Domain} {va : Word} {s : State} (h : ∀ pa, lookup d .write va s ≠ .handler .dma pa)
    (w : Width) (v : BitVec 64) : SameController s (memWrite d w va v s).state := by
  unfold memWrite
  split
  · split
    · rw [Reply.state_done, State.storeLE_eq]
      exact ⟨rfl, rfl, rfl, rfl, rfl⟩
    · exact emit_sameController s _
    · rename_i hd pa hl
      exact handlerWrite_sameController (fun hdma => h pa (hdma ▸ hl)) d w pa v s
    · exact emit_sameController s _
  · exact .refl s

/-! ### Parts in sequence -/

theorem Reply.andThen_of_done {α β : Type} {r : Reply α} {v : α} {s : State} (h : r = .done v s)
    (f : α → State → Reply β) : r.andThen f = f v s := by
  rw [h, Reply.andThen_done]

theorem Reply.andThen_of_raised {α β : Type} {r : Reply α} {e : Cause} {s : State} (h : r = .raised e s)
    (f : α → State → Reply β) : r.andThen f = .raised e s := by
  rw [h, Reply.andThen_raised]

theorem Reply.andThen_assoc {α β γ : Type} (r : Reply α) (f : α → State → Reply β) (g : β → State → Reply γ) :
    (r.andThen f).andThen g = r.andThen fun v s => (f v s).andThen g := by
  cases r <;> rfl

theorem Reply.andThen_value_eq_done {α β : Type} {r : Reply α} {g : α → β} {x : β} {t : State} :
    (r.andThen fun v s => .done (g v) s) = .done x t ↔ ∃ v, r = .done v t ∧ g v = x := by
  cases r <;> simp [and_comm]

theorem Reply.andThen_value_eq_raised {α β : Type} {r : Reply α} {g : α → β} {e : Cause} {t : State} :
    (r.andThen fun v s => .done (g v) s) = .raised e t ↔ r = .raised e t := by
  cases r <;> simp

/-! ### The Word commands on domain S, and the accesses of a step -/

section
variable {i : Instr} {s t : State} (hs : s.Live) (h : exec i s = .next t)
include hs h

/-- A command after which the block is live ended with a value. -/
theorem bodyOf_done_of_live (ht : t.Live) : ∃ v u, bodyOf i (s.setResult .none) = .done v u ∧ t = u.setResult v := by
  cases hf : bodyOf i (s.setResult .none) with
  | done v u =>
    rw [exec_done hs hf] at h
    cases h
    exact ⟨v, u, rfl, rfl⟩
  | raised c u =>
    rw [exec_raised hs hf] at h
    cases h
    cases ht

/-- A command after which a fault is recorded raised its cause; without the fault it leaves what its body left. -/
theorem bodyOf_raised_of_fault {r : FaultRecord} (ht : t.fault = some r) :
    bodyOf i (s.setResult .none) = .raised r.cause { t with fault := none } := by
  have hbody := bodyOf_fault i (s.setResult .none)
  cases hf : bodyOf i (s.setResult .none) with
  | done v u =>
    rw [hf, Reply.state_done] at hbody
    rw [exec_done hs hf] at h
    cases h
    cases ht.symm.trans (hbody.trans hs)
  | raised c u =>
    rw [hf, Reply.state_raised] at hbody
    rw [exec_raised hs hf] at h
    cases h
    cases ht
    rw [← hbody.trans hs]

end

section
variable {a w : Word} {s t : State} {r : FaultRecord} (hs : s.Live)
include hs

theorem memRead_of_readsWord (h : ReadsWord a w s t) :
    ∃ v, memRead .S .w32 a (s.setResult .none) = .done v (t.setResult .none) ∧ v.setWidth 32 = w := by
  obtain ⟨hexec, hword, ht⟩ := h
  obtain ⟨x, u, hbody, rfl⟩ := bodyOf_done_of_live hs hexec ht
  obtain ⟨v, hm, rfl⟩ := Reply.andThen_value_eq_done.1 hbody
  have hresult := memRead_sameResult .S .w32 a (s.setResult .none)
  rw [hm] at hresult
  exact ⟨v, hm.trans (congrArg (Reply.done v) (setResult_of_eq hresult).symm), Result.word.inj hword⟩

theorem readFrame_of_readsWord (h : ReadsWord a w s t) : ReadFrame (s.setResult .none) (t.setResult .none) := by
  obtain ⟨v, hm, -⟩ := memRead_of_readsWord hs h
  have hframe := memRead_readFrame .S .w32 a (s.setResult .none)
  rwa [hm] at hframe

theorem memRead_of_readWord_fault (h : exec (.readWord .S a) s = .next t) (ht : t.fault = some r) :
    memRead .S .w32 a (s.setResult .none) = .raised r.cause { t with fault := none } :=
  Reply.andThen_value_eq_raised.1 (bodyOf_raised_of_fault hs h ht)

/-- A Word write returns nothing, so it leaves what the access leaves. -/
theorem memWrite_of_writeWord_live (h : exec (.writeWord .S a w) s = .next t) (ht : t.Live) :
    memWrite .S .w32 a (w.setWidth 64) (s.setResult .none) = .done () t ∧ t.result = .none := by
  obtain ⟨x, u, hbody, rfl⟩ := bodyOf_done_of_live hs h ht
  obtain ⟨_, hm, rfl⟩ := Reply.andThen_value_eq_done.1 hbody
  have hresult := (memWrite_writeFrame .S .w32 a (w.setWidth 64) (s.setResult .none)).result
  rw [hm] at hresult
  exact ⟨hm.trans (congrArg (Reply.done ()) (setResult_of_eq hresult).symm), rfl⟩

theorem memWrite_of_writeWord_fault (h : exec (.writeWord .S a w) s = .next t) (ht : t.fault = some r) :
    memWrite .S .w32 a (w.setWidth 64) (s.setResult .none) = .raised r.cause { t with fault := none } :=
  Reply.andThen_value_eq_raised.1 (bodyOf_raised_of_fault hs h ht)

end

/-! ### Several words read in order -/

/-- `n` words of domain S, read from an address on, in order. -/
def readWords (a : Word) (n : Nat) (s : State) : Reply (List Word) :=
  match n with
  | 0 => .done [] s
  | n + 1 => (memRead .S .w32 a s).andThen fun v s =>
      (readWords (a + 4) n s).andThen fun ws s => .done (v.setWidth 32 :: ws) s

theorem ReadsWord.live {a w : Word} {s t : State} (h : ReadsWord a w s t) : t.Live := h.2.2

theorem ReadsWords.live {a : Word} {ws : List Word} {s t : State} (h : ReadsWords a ws s t) (hs : s.Live) : t.Live := by
  induction ws generalizing a s with
  | nil => exact (show t = s from h) ▸ hs
  | cons w ws ih =>
    obtain ⟨u, hw, hws⟩ := h
    exact ih hws hw.live

/-- The words that Word commands read are those that `readWords` reads, with nothing returned. -/
theorem readWords_of_readsWords {a : Word} {ws : List Word} {s t : State} (hs : s.Live) (h : ReadsWords a ws s t) :
    readWords a ws.length (s.setResult .none) = .done ws (t.setResult .none) := by
  induction ws generalizing a s with
  | nil => rw [show t = s from h]; rfl
  | cons w ws ih =>
    obtain ⟨u, hw, hws⟩ := h
    obtain ⟨v, hm, rfl⟩ := memRead_of_readsWord hs hw
    simp only [List.length_cons, readWords, hm, Reply.andThen_done, ih hw.live hws]

theorem readFrame_of_readsWords {a : Word} {ws : List Word} {s t : State} (hs : s.Live) (h : ReadsWords a ws s t) :
    ReadFrame (s.setResult .none) (t.setResult .none) := by
  induction ws generalizing a s with
  | nil => exact (show t = s from h) ▸ .refl _
  | cons w ws ih =>
    obtain ⟨u, hw, hws⟩ := h
    exact (readFrame_of_readsWord hs hw).trans (ih hw.live hws)

/-- A read that raises after the reads before it returned ends `readWords`. -/
theorem readWords_of_raised {a : Word} {ws : List Word} {s u t : State} {e : Cause} {n : Nat} (hs : s.Live)
    (hn : ws.length < n) (h : ReadsWords a ws s u)
    (hm : memRead .S .w32 (a + BitVec.ofNat 32 (4 * ws.length)) (u.setResult .none) = .raised e t) :
    readWords a n (s.setResult .none) = .raised e t := by
  induction ws generalizing a s n with
  | nil =>
    obtain ⟨n, rfl⟩ := Nat.exists_eq_add_one.2 hn
    rw [show u = s from h, List.length_nil, Nat.mul_zero, BitVec.add_zero] at hm
    rw [readWords, hm, Reply.andThen_raised]
  | cons w ws ih =>
    obtain ⟨n, rfl⟩ := Nat.exists_eq_add_one.2 (Nat.zero_lt_of_lt hn)
    obtain ⟨s', hw, hws⟩ := h
    obtain ⟨v, hv, -⟩ := memRead_of_readsWord hs hw
    have hnext : a + 4 + BitVec.ofNat 32 (4 * ws.length) = a + BitVec.ofNat 32 (4 * (w :: ws).length) := by
      rw [List.length_cons]
      bv_omega
    have hrest := ih hw.live (Nat.lt_of_succ_lt_succ hn) hws (hnext ▸ hm)
    rw [readWords, hv, Reply.andThen_done, hrest, Reply.andThen_raised]

/-! ### What each kind of step does -/

theorem hasRoom_iff {s : State} {side : FifoSide} {n : Nat} : s.hasRoom side n = true ↔ s.Room side n := by
  unfold State.hasRoom State.Room
  cases s.params.fifoDepth <;> simp

section
variable {c : Fin 13} {s : State}

theorem stepChannel_streaming (hk : s.kind c = .streaming) (hn : 2 ≤ (s.chan c).count.toNat) :
    stepChannel c s = .done () (s.setChan c { s.chan c with count := (s.chan c).count - 1 }) := by
  have h0 : (s.chan c).count ≠ 0 := by bv_omega
  have h1 : (s.chan c).count - 1 ≠ 0 := by bv_omega
  simp only [stepChannel, hk, streamStep, State.setChan_chan, if_pos, if_neg h0, if_neg h1]

theorem stepChannel_outTag (hk : s.kind c = .outbound) (hn : (s.chan c).count = 0)
    (he : (s.chan c).endTransfer = false) : stepChannel c s = outTag c s := by
  simp [stepChannel, hk, outStep, hn, he]

theorem stepChannel_outData (hk : s.kind c = .outbound) (hn : (s.chan c).count ≠ 0) :
    stepChannel c s = outData c s := by
  simp only [stepChannel, hk, outStep, if_pos hn]

theorem stepChannel_inTag (hk : s.kind c = .inbound) (hn : (s.chan c).count = 0)
    (he : (s.chan c).endTransfer = false) : stepChannel c s = inTag c s := by
  simp [stepChannel, hk, inStep, hn, he]

theorem stepChannel_inData (hk : s.kind c = .inbound) (hn : (s.chan c).count ≠ 0) :
    stepChannel c s = inData c s := by
  simp only [stepChannel, hk, inStep, if_pos hn]

theorem stepChannel_unimplemented (hk : s.kind c = .unimplemented) :
    stepChannel c s = .raised (.unmodelledChannel c) s := by
  simp [stepChannel, hk]

theorem outTag_stall (h : ¬ s.Room .side0 2) : outTag c s = .done () s :=
  if_neg (mt hasRoom_iff.1 h)

theorem outData_stall (h : ¬ s.Room .side0 1) : outData c s = .done () s :=
  if_neg (mt hasRoom_iff.1 h)

theorem outData_of_room (h : s.Room .side0 1) : outData c s =
    (memRead .S .w32 (s.chan c).base s).andThen fun w s =>
      .done () ((s.append .side0 [w.setWidth 32]).setChan c (s.chan c).advance) := by
  rw [outData, if_pos (hasRoom_iff.2 h)]
  simp only [State.append_chan]

theorem inTag_stall (h : (s.fifo .side1).length < 4) : inTag c s = .done () s := by
  unfold inTag
  split
  · rename_i hf
    rw [hf] at h
    simp only [List.length_cons] at h
    omega
  · rfl

theorem inTag_of_fifo {lo hi p q : Word} {rest : List Word} (h : s.fifo .side1 = lo :: hi :: p :: q :: rest) :
    inTag c s = .done () ((s.setFifo .side1 rest).setChan c
      ((s.chan c).loadTag lo (hi.setWidth 16) (s.chan c).tag)) := by
  simp [inTag, h]

theorem inData_stall (h : s.fifo .side1 = []) : inData c s = .done () s := by
  rw [inData, h]

theorem inData_of_fifo {w : Word} {rest : List Word} (h : s.fifo .side1 = w :: rest) : inData c s =
    (memWrite .S .w32 (s.chan c).base (w.setWidth 64) (s.setFifo .side1 rest)).andThen fun _ s =>
      .done () (s.setChan c (s.chan c).advance) := by
  rw [inData, h]

/-- The state after the four words of an outbound tag: the last two are pushed, and the channel is loaded from the first
two (42_dma_transfer.md R311). -/
def State.loadOutTag (s : State) (c : Fin 13) (tag : Word) : List Word → State
  | [w0, w1, w2, w3] => (s.append .side0 [w2, w3]).setChan c
      ((s.chan c).loadTag w0 ((roundup4 w1).setWidth 16) (tag + 16))
  | _ => s

theorem outTag_of_room (h : s.Room .side0 2) : outTag c s =
    (readWords (s.chan c).tag 4 s).andThen fun ws s' => .done () (s'.loadOutTag c (s.chan c).tag ws) := by
  have h8 (T : Word) : T + 4 + 4 = T + 8 := BitVec.add_assoc T 4 4
  have h12 (T : Word) : T + 8 + 4 = T + 12 := BitVec.add_assoc T 8 4
  rw [outTag, if_pos (hasRoom_iff.2 h)]
  simp only [readWords, Reply.andThen_assoc, Reply.andThen_done, h8, h12, State.loadOutTag, State.append_chan]

end

/-- The two bits of a tag that end a chain are those of R311 and R321 when `end_transfer` was clear. -/
theorem loadTag_of_not_endTransfer {ch : Channel} (h : ch.endTransfer = false) (lo : Word) (n : BitVec 16)
    (tag : Word) : ch.loadTag lo n tag = { ch with
      base := lo &&& 0x00FFFFFF, count := n, tag := tag, endTransfer := lo.getLsbD 30 || lo.getLsbD 31 } := by
  rw [Channel.loadTag, h, Bool.false_or]
  rfl

/-- A step that reads, then pushes words on FIFO side 0 and sets its channel, changes nothing but by its reads. -/
theorem StepLeaves.of_push {c : Fin 13} {s t : State} {ws : List Word} {v : Channel} (hs : s.Live)
    (hframe : ReadFrame (s.setResult .none) (t.setResult .none))
    (hstep : stepChannel c (s.setResult .none) = .done () (((t.setResult .none).append .side0 ws).setChan c v)) :
    StepLeaves c s { t with
      sif := { s.sif with fifo0 := s.sif.fifo0 ++ ws }, ch := s.ch.set c v, result := .none } := by
  have hsif : t.sif = s.sif := hframe.sif
  have hch : t.ch = s.ch := hframe.sameController.ch
  rw [← hsif, ← hch]
  refine .of_step hs hstep fun c' hc => ?_
  calc (((t.setResult .none).append .side0 ws).setChan c v).eligible c'
    _ = ((t.setResult .none).append .side0 ws).eligible c' := setChan_eligible hc ..
    _ = (t.setResult .none).eligible c' := (append_sameController ..).eligible c'
    _ = (s.setResult .none).eligible c' := hframe.sameController.eligible c'
    _ = s.eligible c' := s.setResult_eligible .none c'

/-! ### The end of a transfer (42_dma_transfer.md R330) -/

theorem Latch.pending_iff (l : Latch) : l.pending = true ↔ l.flags &&& l.low.extractLsb' 16 7 ≠ 0 := by
  rw [Latch.pending, Latch.masks, bne_iff_ne, BitVec.and_comm]

theorem endTransfer_chan (c c' : Fin 13) (s : State) :
    (endTransfer c s).chan c' = if c' = c then (s.chan c).ended else s.chan c' := by
  simp [endTransfer]

theorem endTransfer_latch (c : Fin 13) (h : Half) (s : State) : (endTransfer c s).latch h =
    if h = halfOf c then (s.latch (halfOf c)).setFlag (idxOf c) else s.latch h := by
  simp [endTransfer]

theorem endTransfer_out (c : Fin 13) (s : State) : (endTransfer c s).out = s.out ++
    ((if ((endTransfer c s).latch (halfOf c)).pending then [Event.irqRequest] else []) ++
      (if s.kind c = .streaming then [Event.audioNotify c] else [])) := by
  simp [endTransfer, endEvents]

/-- `EndTransfer(c)`, with nothing returned, does what R330 says. -/
theorem transferEnded_endTransfer (c : Fin 13) (s : State) : TransferEnded c s (endTransfer c (s.setResult .none)) where
  channel := (endTransfer_chan c c _).trans (if_pos rfl)
  other_channels c' hc := (endTransfer_chan c c' _).trans (if_neg hc)
  flags i := by
    rw [endTransfer_latch, if_pos rfl, Latch.setFlag_getLsbD _ _ _ (idxOf_lt c), Bool.or_comm, State.setResult_latch]
  low := by rw [endTransfer_latch, if_pos rfl, Latch.setFlag_low, State.setResult_latch]
  other_half h hh := by rw [endTransfer_latch, if_neg hh, State.setResult_latch]
  events := by
    rw [endTransfer_out, State.setResult_out, State.setResult_kind]
    simp only [Latch.pending_iff]
  rest := by
    unfold endTransfer
    cases halfOf c <;> rfl

end Sys2Proof.Machine

open Sys2Proof Sys2Proof.Machine

/-- Settles O42: with a count of at least 2 the step does not end the transfer, and makes no other channel eligible. -/
theorem streamingStepCountsDown : Obligations.StreamingStepCountsDown := by
  unfold Obligations.StreamingStepCountsDown
  intro s c hs hk hn
  have hstep : stepChannel c (s.setResult .none) = _ := stepChannel_streaming hk hn
  exact .of_step hs hstep fun c' hc => (setChan_eligible hc ..).trans (s.setResult_eligible .none c')

/-- Settles O43: the ending step is `EndTransfer(c)` of the state with a count of 0. -/
theorem endOfTransfer : Obligations.EndOfTransfer := by
  unfold Obligations.EndOfTransfer
  intro s c hs he
  have hstep : stepChannel c (s.setResult .none) = _ := stepChannel_of_endsNow he
  exact ⟨_, ⟨hstep, fun ho => exec_dmaRun_of_endsNow hs ho he⟩, transferEnded_endTransfer c (s.zeroCount c)⟩

/-- Settles O45: the fetch is its four reads in order and then a push; a read that raises ends it. -/
theorem outboundTagFetch : Obligations.OutboundTagFetch := by
  unfold Obligations.OutboundTagFetch
  intro s c hs hk hn he
  have hstep : stepChannel c (s.setResult .none) = outTag c (s.setResult .none) := stepChannel_outTag hk hn he
  have hfetch (hroom : s.Room .side0 2) := hstep.trans (outTag_of_room (c := c) (s := s.setResult .none) hroom)
  refine ⟨fun hroom => .of_stall hs (hstep.trans (outTag_stall hroom)), fun hroom ha => ?_,
    fun hroom ws u t r hlen hws hexec hr => ?_, fun hroom w0 w1 w2 w3 t hws => ?_⟩
  · have hread : readWords (s.chan c).tag 4 (s.setResult .none) = _ :=
      Reply.andThen_of_raised (memRead_misaligned (w := .w32) ha ..) _
    exact .of_step hs ((hfetch hroom).trans (Reply.andThen_of_raised hread _))
  · have hread := readWords_of_raised hs hlen hws (memRead_of_readWord_fault (hws.live hs) hexec hr)
    exact .of_step hs ((hfetch hroom).trans (Reply.andThen_of_raised hread _))
  · have hread := readWords_of_readsWords hs hws
    have hframe := readFrame_of_readsWords hs hws
    refine .of_push hs hframe (((hfetch hroom).trans (Reply.andThen_of_done hread _)).trans ?_)
    have hchan : (t.setResult .none).chan c = s.chan c := hframe.sameController.chan c
    simp only [State.loadOutTag, hchan, loadTag_of_not_endTransfer he]
    rfl

/-- Settles O46: the step is its read and then a push; a read that raises pushes nothing. -/
theorem outboundDataWord : Obligations.OutboundDataWord := by
  unfold Obligations.OutboundDataWord
  intro s c hs hk hn
  have hstep : stepChannel c (s.setResult .none) = outData c (s.setResult .none) := stepChannel_outData hk hn
  have hfetch (hroom : s.Room .side0 1) := hstep.trans (outData_of_room (c := c) (s := s.setResult .none) hroom)
  refine ⟨fun hroom => .of_stall hs (hstep.trans (outData_stall hroom)), fun hroom ha => ?_,
    fun hroom t r hexec hr => ?_, fun hroom t w hw => ?_⟩
  · exact .of_step hs ((hfetch hroom).trans (Reply.andThen_of_raised (memRead_misaligned (w := .w32) ha ..) _))
  · exact .of_step hs ((hfetch hroom).trans (Reply.andThen_of_raised (memRead_of_readWord_fault hs hexec hr) _))
  · obtain ⟨v, hread, rfl⟩ := memRead_of_readsWord hs hw
    have hframe := readFrame_of_readsWord hs hw
    refine .of_push hs hframe (((hfetch hroom).trans (Reply.andThen_of_done hread _)).trans ?_)
    have hchan : (t.setResult .none).chan c = s.chan c := hframe.sameController.chan c
    rw [hchan]
    rfl

/-- Settles O47: the step takes four words and loads the channel, and makes no other channel eligible. -/
theorem inboundTagFetch : Obligations.InboundTagFetch := by
  unfold Obligations.InboundTagFetch
  intro s c hs hk hn he
  have hstep : stepChannel c (s.setResult .none) = inTag c (s.setResult .none) := stepChannel_inTag hk hn he
  refine ⟨fun hlen => .of_stall hs (hstep.trans (inTag_stall hlen)), fun lo hi p q rest hfifo => ?_⟩
  have hload := hstep.trans (inTag_of_fifo hfifo)
  rw [State.setResult_chan, loadTag_of_not_endTransfer he] at hload
  refine .of_step hs hload fun c' hc => ?_
  calc _ = ((s.setResult .none).setFifo .side1 rest).eligible c' := setChan_eligible hc ..
    _ = (s.setResult .none).eligible c' := (setFifo_sameController ..).eligible c'
    _ = s.eligible c' := s.setResult_eligible .none c'

/-- Settles O48: the step is the Word write of the popped word, then the channel's advance; only a write that reaches
the controller can make another channel eligible. -/
theorem inboundDataWord : Obligations.InboundDataWord := by
  unfold Obligations.InboundDataWord
  intro s c hs hk hn
  have hstep : stepChannel c (s.setResult .none) = inData c (s.setResult .none) := stepChannel_inData hk hn
  refine ⟨fun hfifo => .of_stall hs (hstep.trans (inData_stall hfifo)), fun w rest hfifo => ?_⟩
  intro popped
  have hpopped : popped.Live := hs
  have hwrite : stepChannel c (s.setResult .none) =
      (memWrite .S .w32 (s.chan c).base (w.setWidth 64) (popped.setResult .none)).andThen fun _ s =>
        .done () (s.setChan c (s.chan c).advance) := hstep.trans (inData_of_fifo hfifo)
  refine ⟨fun ha => ?_, fun t r hexec hr => ?_, fun t hexec ht => ?_⟩
  · exact .of_step hs (hwrite.trans (Reply.andThen_of_raised (memWrite_misaligned (w := .w32) ha ..) _))
  · exact .of_step hs (hwrite.trans (Reply.andThen_of_raised (memWrite_of_writeWord_fault hpopped hexec hr) _))
  · intro u
    obtain ⟨hmem, hresult⟩ := memWrite_of_writeWord_live hpopped hexec ht
    have hu : u = t.setChan c (t.chan c).advance := setResult_of_eq (s := t.setChan c (t.chan c).advance) hresult
    have hdone : stepChannel c (s.setResult .none) = .done () u := by
      rw [hwrite, hmem, hu, Reply.andThen_done]
    refine ⟨hdone, fun h ho => exec_dmaRun_only hs ho hdone fun c' hc => ?_⟩
    rw [hu, setChan_eligible hc.ne']
    obtain hno | hlater := h
    · have hsame := memWrite_sameController (s := popped.setResult .none) hno .w32 (w.setWidth 64)
      rw [hmem] at hsame
      calc t.eligible c'
        _ = s.eligible c' := hsame.eligible c'
        _ = false := by rw [ho c', decide_eq_false hc.ne']
    · exact hlater c' hc

/-- Settles O59: the loop of `Run` makes these steps, by induction on the channels. -/
theorem runStepsChannelsInOrder : Obligations.RunStepsChannelsInOrder := by
  unfold Obligations.RunStepsChannelsInOrder
  intro s hs
  exact ⟨_, _, runSteps_runChannels allChannels (s.setResult .none), exec_dmaRun hs⟩

/-- Settles O41: `cycles` is not in the body of `Run`, and its loop passes every channel that is not eligible. -/
theorem runWithNoEligibleChannel : Obligations.RunWithNoEligibleChannel := by
  unfold Obligations.RunWithNoEligibleChannel
  refine ⟨fun s m n => RunsAs.sameEffect (s := s) rfl, fun s n hs h => exec_dmaRun_none hs (fun c => ?_) n⟩
  rw [State.eligible, Bool.and_eq_false_iff]
  exact h c

/-- Settles O49: the step raises at once, and a raise ends the loop. -/
theorem unimplementedChannelIsFatal : Obligations.UnimplementedChannelIsFatal := by
  unfold Obligations.UnimplementedChannelIsFatal
  intro s c hs hk
  exact .of_step hs (stepChannel_unimplemented (s := s.setResult .none) hk)
end

section
/-! ## The SIF: its FIFOs and its handshake registers (43_sif.md) -/

namespace Sys2Proof.Machine

/-! ### Two states with the same FIFOs -/

/-- Two states that queue the same words (10_state.md R55). -/
structure SameFifos (s t : State) : Prop where
  fifo : ∀ side, t.fifo side = s.fifo side

theorem SameFifos.refl (s : State) : SameFifos s s := ⟨fun _ => rfl⟩

theorem SameFifos.trans {s t u : State} (h : SameFifos s t) (k : SameFifos t u) : SameFifos s u :=
  ⟨fun side => (k.fifo side).trans (h.fifo side)⟩

theorem SameFifos.of_sif {s t : State} (h : t.sif = s.sif) : SameFifos s t := by
  refine ⟨fun side => ?_⟩
  cases side
  · exact congrArg Sif.fifo0 h
  · exact congrArg Sif.fifo1 h

theorem ReadFrame.sameFifos {s t : State} (h : ReadFrame s t) : SameFifos s t := .of_sif h.sif

theorem WriteFrame.sameFifos {s t : State} (h : WriteFrame s t) : SameFifos s t := ⟨h.fifo⟩

theorem raise_sameFifos (c : Cause) (who : Issued) (s : State) : SameFifos s (raise c who s) := by
  rw [raise_frame]
  exact .of_sif rfl

/-! ### Commands that leave the FIFOs alone (43_sif.md R366) -/

theorem registerRegion_sameFifos (d : Domain) (vstart vend : Nat) (mask : Word) (st : Store) (s : State) :
    SameFifos s (registerRegion d vstart vend mask st s).state := by
  rcases registerRegion_cases d vstart vend mask st s with ⟨c, e⟩ | ⟨-, -, -, e⟩ <;> rw [e]
  · exact .refl s
  · exact ⟨s.setSpace_fifo d _⟩

theorem registerHandler_sameFifos (d : Domain) (dir : Dir) (lo hi : Nat) (h : Handler) (s : State) :
    SameFifos s (registerHandler d dir lo hi h s).state := by
  rcases registerHandler_cases d dir lo hi h s with e | e <;> rw [e]
  · exact .refl s
  · exact ⟨s.setSpace_fifo d _⟩

theorem quadCheck_readFrame (d : Domain) (va : Word) (s : State) : ReadFrame s (quadCheck d va s).state := by
  rw [quadCheck_state]
  exact .refl s

theorem readQuad_readFrame (d : Domain) (va : Word) (s : State) : ReadFrame s (readQuad d va s).state :=
  Reply.andThen_keeps ReadFrame.trans (quadCheck_readFrame ..) fun _ _ =>
  Reply.andThen_keeps ReadFrame.trans (memRead_readFrame ..) fun _ _ =>
  Reply.andThen_keeps ReadFrame.trans (memRead_readFrame ..) fun _ _ =>
  Reply.andThen_keeps ReadFrame.trans (memRead_readFrame ..) fun _ _ =>
  Reply.andThen_keeps ReadFrame.trans (memRead_readFrame ..) fun _ t => .refl t

theorem quadCheck_writeFrame (d : Domain) (va : Word) (s : State) : WriteFrame s (quadCheck d va s).state := by
  rw [quadCheck_state]
  exact .refl s

theorem writeCommand_writeFrame (d : Domain) (w : Width) (va : Word) (v : BitVec 64) (s : State) :
    WriteFrame s (writeCommand d w va v s).state := by
  rw [writeCommand, Reply.noResult_state]
  exact memWrite_writeFrame ..

theorem writeQuad_writeFrame (d : Domain) (va : Word) (v : BitVec 128) (s : State) :
    WriteFrame s (writeQuad d va v s).state :=
  Reply.andThen_keeps WriteFrame.trans (quadCheck_writeFrame ..) fun _ _ =>
  Reply.andThen_keeps WriteFrame.trans (memWrite_writeFrame ..) fun _ _ =>
  Reply.andThen_keeps WriteFrame.trans (memWrite_writeFrame ..) fun _ _ =>
  Reply.andThen_keeps WriteFrame.trans (memWrite_writeFrame ..) fun _ _ => writeCommand_writeFrame ..

/-- The commands that move words through a FIFO: `Run`, the pushes and the pops (43_sif.md R351 to R353). -/
def movesWords : Instr → Bool
  | .dmaRun _ | .writeSide0Fifo _ | .writeSide1FifoWord _ | .writeSide1FifoWide _ | .readSide0Fifo | .readSide1Fifo =>
    true
  | _ => false

theorem bodyOf_sameFifos {i : Instr} (h : movesWords i = false) (s : State) : SameFifos s (bodyOf i s).state := by
  cases i
  case dmaRun | writeSide0Fifo | writeSide1FifoWord | writeSide1FifoWide | readSide0Fifo | readSide1Fifo => cases h
  case registerRegion => exact registerRegion_sameFifos ..
  case registerReadHandler | registerWriteHandler => exact registerHandler_sameFifos ..
  case readQuad => exact (readQuad_readFrame ..).sameFifos
  case writeQuad => exact (writeQuad_writeFrame ..).sameFifos
  case translateVirtualAddress | validCodeRegion | getSide0FifoSize | getSide1FifoSize | sifReadRegister =>
    exact .refl s
  case dmaReset => exact .of_sif rfl
  case dmaReadRegister => exact Reply.andThen_keeps SameFifos.trans (dmaRead_readFrame ..).sameFifos fun _ t => .refl t
  case dmaWriteRegister =>
    rw [bodyOf, Reply.noResult_state]
    exact (dmaWrite_writeFrame ..).sameFifos
  case sifWriteMscom | sifWriteSmcom | sifWriteMsflag | sifWriteSmflag | sifWriteCtrl | sifWriteBd6 =>
    exact (sifWrite_writeFrame ..).sameFifos
  case writeByte | writeHalf | writeWord | writeDouble | stDpcr | stDicr | stDpcr2 | stDicr2 | stDmacen | stDmacinten
      | stMadr | stBcr | stBcrCount | stChcr | stTadr | stMscomP | stSmcomP | stMsflagP | stSmflagP | stCtrlP | stBd6P
      | stMscomS | stSmcomS | stMsflagS | stSmflagS | stCtrlS | stBd6S => exact (writeCommand_writeFrame ..).sameFifos
  all_goals exact (readCommand_readFrame ..).sameFifos

theorem exec_sameFifos {i : Instr} {s t : State} (hi : movesWords i = false) (h : exec i s = .next t) :
    SameFifos s t :=
  exec_related h .refl (fun _ _ => .of_sif rfl) (fun u c who => raise_sameFifos c who u) .trans
    (bodyOf_sameFifos hi)

/-! ### Pushes and pops (43_sif.md R351 to R353) -/

section
variable {s : State}

theorem pushSide0_fits (h : s.params.fifoDepth ≠ some (s.fifo .side0).length) (w : Word) :
    pushSide0 w s = .done () (s.append .side0 [w]) := if_neg h

theorem pushSide0_full (h : s.params.fifoDepth = some (s.fifo .side0).length) (w : Word) :
    pushSide0 w s = .raised (.fifoOverflow .side0) s := if_pos h

theorem pushSide1_fits {ws : List Word} (h : s.Room .side1 ws.length) :
    pushSide1 ws s = .done () (s.append .side1 ws) := if_pos (hasRoom_iff.2 h)

theorem pushSide1_full {ws : List Word} (h : ¬ s.Room .side1 ws.length) :
    pushSide1 ws s = .raised (.fifoOverflow .side1) s := if_neg (mt hasRoom_iff.1 h)

theorem popSide_cons {side : FifoSide} {w : Word} {ws : List Word} (h : s.fifo side = w :: ws) :
    popSide side s = .done w (s.setFifo side ws) := by
  rw [popSide, h]

theorem popSide_empty {side : FifoSide} (h : s.fifo side = []) :
    popSide side s = .raised (.fifoUnderflow side) s := by
  rw [popSide, h]

/-- A push that does not raise appends. -/
theorem pushSide0_eq_done {w : Word} {x : Unit} {t : State} (h : pushSide0 w s = .done x t) :
    t = s.append .side0 [w] := by
  unfold pushSide0 at h
  split at h <;> cases h
  rfl

theorem pushSide1_eq_done {ws : List Word} {x : Unit} {t : State} (h : pushSide1 ws s = .done x t) :
    t = s.append .side1 ws := by
  unfold pushSide1 at h
  split at h <;> cases h
  rfl

/-- A pop that does not raise returns the head and leaves the tail. -/
theorem popSide_eq_done {side : FifoSide} {w : Word} {t : State} (h : popSide side s = .done w t) :
    ∃ ws, s.fifo side = w :: ws ∧ t = s.setFifo side ws := by
  unfold popSide at h
  split at h <;> cases h
  exact ⟨_, ‹_›, rfl⟩

end

theorem bodyOf_popOf (side : FifoSide) (s : State) :
    bodyOf (popOf side) s = (popSide side s).andThen fun w s => .done (.word w) s := by
  cases side <;> rfl

section
variable {s : State} (hs : s.Live)
include hs

/-- A push that does not raise leaves what its part leaves, and returns nothing. -/
theorem exec_push {i : Instr} {r : Reply Unit} {t : State} (hb : bodyOf i (s.setResult .none) = r.noResult)
    (hr : r = .done () t) : exec i s = .next (t.setResult .none) :=
  exec_done hs (hb.trans (Reply.andThen_of_done hr _))

theorem raises_push {i : Instr} {r : Reply Unit} {e : Cause} (hb : bodyOf i (s.setResult .none) = r.noResult)
    (hr : r = .raised e (s.setResult .none)) : Raises i e s :=
  exec_raised hs (hb.trans (Reply.andThen_of_raised hr _))

theorem exec_popOf (side : FifoSide) {w : Word} {ws : List Word} (h : s.fifo side = w :: ws) :
    exec (popOf side) s = .next ((s.setFifo side ws).setResult (.word w)) := by
  have hpop := popSide_cons (s := s.setResult .none) (side := side) (by rwa [State.setResult_fifo])
  rw [exec_done hs ((bodyOf_popOf side _).trans (Reply.andThen_of_done hpop _))]
  cases side <;> rfl

theorem raises_popOf (side : FifoSide) (h : s.fifo side = []) : Raises (popOf side) (.fifoUnderflow side) s := by
  have hpop := popSide_empty (s := s.setResult .none) (side := side) (by rwa [State.setResult_fifo])
  exact exec_raised hs ((bodyOf_popOf side _).trans (Reply.andThen_of_raised hpop _))

end

/-! ### Words pushed and popped by one command -/

theorem pushedBy_of_not_movesWords {i : Instr} (h : movesWords i = false) (side : FifoSide) : pushedBy side i = [] := by
  unfold pushedBy
  split
  · cases h
  · cases h
  · cases h
  · rfl

theorem poppedBy_of_ne {side : FifoSide} {i : Instr} (h : i ≠ popOf side) (t : State) : poppedBy side i t = [] := by
  simp only [poppedBy, decide_eq_false h]

theorem poppedBy_popOf {side : FifoSide} {w : Word} {t : State} (h : t.result = .word w) :
    poppedBy side (popOf side) t = [w] := by
  simp only [poppedBy, decide_true, h]

theorem ne_popOf_of_not_movesWords {i : Instr} (h : movesWords i = false) (side : FifoSide) : i ≠ popOf side := by
  rintro rfl
  cases side <;> cases h

theorem popOf_injective : Function.Injective popOf := by
  rintro (_ | _) (_ | _) h
  · rfl
  · cases h
  · cases h
  · rfl

theorem pushedBy_popOf (side side' : FifoSide) : pushedBy side (popOf side') = [] := by
  cases side <;> cases side' <;> rfl

theorem pushedBy_writeSide0Fifo (w : Word) (side : FifoSide) :
    pushedBy side (.writeSide0Fifo w) = if side = .side0 then [w] else [] := by
  cases side <;> rfl

theorem pushedBy_writeSide1FifoWord (w : Word) (side : FifoSide) :
    pushedBy side (.writeSide1FifoWord w) = if side = .side1 then [w] else [] := by
  cases side <;> rfl

theorem pushedBy_writeSide1FifoWide (v : BitVec 64) (side : FifoSide) :
    pushedBy side (.writeSide1FifoWide v) = if side = .side1 then wideWords v else [] := by
  cases side <;> rfl

/-- A command conserves the words of a FIFO: those it popped, then the queue it left, are the queue it found, then those
it pushed. -/
def WordsConserved (side : FifoSide) (i : Instr) (s t : State) : Prop :=
  poppedBy side i t ++ t.fifo side = s.fifo side ++ pushedBy side i

section
variable {i : Instr} {s u : State} {v : Result}

theorem WordsConserved.of_sameFifos (hi : movesWords i = false) (h : SameFifos s u) (side : FifoSide) :
    WordsConserved side i s u := by
  rw [WordsConserved, poppedBy_of_ne (ne_popOf_of_not_movesWords hi side), pushedBy_of_not_movesWords hi, h.fifo,
    List.nil_append, List.append_nil]

/-- A push appends its words to one FIFO, and pops nothing. -/
theorem WordsConserved.of_push {side' : FifoSide} {ws : List Word} {r : Reply Unit} (hpop : ∀ side, i ≠ popOf side)
    (hpush : ∀ side, pushedBy side i = if side = side' then ws else [])
    (happend : ∀ x t, r = .done x t → t = (s.setResult .none).append side' ws) (h : r.noResult = .done v u)
    (side : FifoSide) : WordsConserved side i s (u.setResult v) := by
  obtain ⟨x, hr, -⟩ := Reply.andThen_value_eq_done.1 h
  rw [WordsConserved, poppedBy_of_ne (hpop side), hpush, happend x u hr, State.setResult_fifo, State.append_fifo,
    State.setResult_fifo, List.nil_append]
  split
  · rfl
  · rw [List.append_nil]

/-- A pop takes the head of its FIFO, leaves the other alone, and pushes nothing. -/
theorem WordsConserved.of_pop {side' : FifoSide} (h : bodyOf (popOf side') (s.setResult .none) = .done v u)
    (side : FifoSide) : WordsConserved side (popOf side') s (u.setResult v) := by
  rw [bodyOf_popOf] at h
  obtain ⟨w, hpop, rfl⟩ := Reply.andThen_value_eq_done.1 h
  obtain ⟨ws, hfifo, rfl⟩ := popSide_eq_done hpop
  rw [State.setResult_fifo] at hfifo
  rw [WordsConserved, pushedBy_popOf, State.setResult_fifo, State.setFifo_fifo, List.append_nil]
  by_cases hside : side = side'
  · subst hside
    rw [poppedBy_popOf rfl, if_pos rfl, hfifo, List.singleton_append]
  · rw [poppedBy_of_ne (mt popOf_injective.eq_iff.1 (Ne.symm hside)), if_neg hside, State.setResult_fifo,
      List.nil_append]

/-- Every command but `Run` conserves the words of both FIFOs, unless it raises. -/
theorem exec_wordsConserved {t : State} (hs : s.Live) (h : exec i s = .next t) (ht : t.Live)
    (hrun : ∀ n, i ≠ .dmaRun n) (side : FifoSide) : WordsConserved side i s t := by
  cases hm : movesWords i with
  | false => exact .of_sameFifos hm (exec_sameFifos hm h) side
  | true =>
    obtain ⟨v, u, hbody, rfl⟩ := bodyOf_done_of_live hs h ht
    cases i
    case dmaRun n => exact absurd rfl (hrun n)
    case readSide0Fifo => exact .of_pop (side' := .side0) hbody side
    case readSide1Fifo => exact .of_pop (side' := .side1) hbody side
    case writeSide0Fifo w =>
      exact .of_push (by rintro (_ | _) ⟨⟩) (pushedBy_writeSide0Fifo w) (fun _ _ => pushSide0_eq_done) hbody side
    case writeSide1FifoWord w =>
      exact .of_push (by rintro (_ | _) ⟨⟩) (pushedBy_writeSide1FifoWord w) (fun _ _ => pushSide1_eq_done) hbody side
    case writeSide1FifoWide w =>
      exact .of_push (by rintro (_ | _) ⟨⟩) (pushedBy_writeSide1FifoWide w) (fun _ _ => pushSide1_eq_done) hbody side
    all_goals cases hm

end

/-! ### Runs of commands (43_sif.md R355) -/

section
variable {side : FifoSide} {i : Instr} {is : List Instr} {s t : State} {popped : List Word}

theorem live_of_exec_live (h : exec i s = .next t) (ht : t.Live) : s.Live := by
  cases hs : s.fault with
  | none => exact hs
  | some r =>
    rw [exec_eq, runCommand_frozen hs] at h
    cases h
    cases hs.symm.trans ht

/-- The words that a run pops are those that its first command pops, then those of the rest. -/
theorem poppedWords_cons (h : poppedWords side (i :: is) s = some (popped, t)) :
    ∃ u ws, exec i s = .next u ∧ poppedWords side is u = some (ws, t) ∧ popped = poppedBy side i u ++ ws := by
  rw [poppedWords] at h
  cases hexec : exec i s with
  | next u =>
    rw [hexec] at h
    obtain ⟨⟨ws, t'⟩, hrest, heq⟩ := Option.map_eq_some_iff.1 h
    cases heq
    exact ⟨u, ws, rfl, hrest, rfl⟩
  | fault e => cases e
  | refused e =>
    rw [hexec] at h
    cases h

theorem live_of_poppedWords_live (h : poppedWords side is s = some (popped, t)) (ht : t.Live) : s.Live := by
  induction is generalizing s popped with
  | nil =>
    cases h
    exact ht
  | cons i is ih =>
    obtain ⟨u, ws, hexec, hrest, -⟩ := poppedWords_cons h
    exact live_of_exec_live hexec (ih hrest)

/-- A run without a `Run` conserves the words of a FIFO. -/
theorem poppedWords_conserved (hrun : ∀ n, Instr.dmaRun n ∉ is) (h : poppedWords side is s = some (popped, t))
    (ht : t.Live) : popped ++ t.fifo side = s.fifo side ++ pushedWords side is := by
  induction is generalizing s popped with
  | nil =>
    cases h
    exact (List.append_nil _).symm
  | cons i is ih =>
    obtain ⟨u, ws, hexec, hrest, rfl⟩ := poppedWords_cons h
    have hu : u.Live := live_of_poppedWords_live hrest ht
    have hi : ∀ n, i ≠ .dmaRun n := fun n e => hrun n (e ▸ List.mem_cons_self)
    have hfirst : WordsConserved side i s u := exec_wordsConserved (live_of_exec_live hexec hu) hexec hu hi side
    have hlater := ih (fun n hmem => hrun n (List.mem_cons_of_mem i hmem)) hrest
    calc poppedBy side i u ++ ws ++ t.fifo side
      _ = poppedBy side i u ++ u.fifo side ++ pushedWords side is := by
        rw [List.append_assoc, hlater, List.append_assoc]
      _ = s.fifo side ++ pushedBy side i ++ pushedWords side is := by rw [hfirst]
      _ = s.fifo side ++ pushedWords side (i :: is) := List.append_assoc ..

end

/-! ### The SIF handlers (43_sif.md R366) -/

section
variable {d : Domain} {pa : Word} {r : SifReg}

theorem sifRegOfAddr_eq_none (h : ∀ r, pa ≠ SifReg.addr d r) : SifReg.ofAddr d pa = none := by
  refine List.find?_eq_none.2 fun r _ hr => h r ?_
  exact (beq_iff_eq.1 hr).symm

theorem handlerRead_sif (d : Domain) (w : Width) (pa : Word) (s : State) :
    handlerRead d .sif w pa s = sifHandlerRead d w pa s := by
  cases d <;> rfl

theorem handlerWrite_sif (d : Domain) (w : Width) (pa : Word) (v : BitVec 64) (s : State) :
    handlerWrite d .sif w pa v s = sifHandlerWrite d w pa v s := by
  cases d <;> rfl

theorem sifHandlerRead_word (d : Domain) (r : SifReg) (s : State) :
    sifHandlerRead d .w32 (SifReg.addr d r) s = .done ((s.sif.reg r).setWidth 64) s := by
  rw [sifHandlerRead, SifReg.ofAddr_addr]
  exact if_pos rfl

theorem sifHandlerRead_width {w : Width} (hw : w ≠ .w32) (d : Domain) (r : SifReg) (s : State) :
    sifHandlerRead d w (SifReg.addr d r) s = .raised (.registerWidth (SifReg.addr d r) w) s := by
  rw [sifHandlerRead, SifReg.ofAddr_addr]
  exact if_neg hw

theorem sifHandlerRead_elsewhere (h : ∀ r, pa ≠ SifReg.addr d r) (w : Width) (s : State) :
    sifHandlerRead d w pa s = .done 0 (s.emit (.diag .read d w.bytes pa none)) := by
  rw [sifHandlerRead, sifRegOfAddr_eq_none h]

theorem sifHandlerWrite_word (d : Domain) (r : SifReg) (v : Word) (s : State) :
    sifHandlerWrite d .w32 (SifReg.addr d r) (v.setWidth 64) s = .done () (s.setSif (s.sif.write d r v)) := by
  rw [sifHandlerWrite, SifReg.ofAddr_addr, setWidth_word_data]
  exact if_pos rfl

theorem sifHandlerWrite_width {w : Width} (hw : w ≠ .w32) (d : Domain) (r : SifReg) (v : BitVec 64) (s : State) :
    sifHandlerWrite d w (SifReg.addr d r) v s = .raised (.registerWidth (SifReg.addr d r) w) s := by
  rw [sifHandlerWrite, SifReg.ofAddr_addr]
  exact if_neg hw

theorem sifHandlerWrite_elsewhere (h : ∀ r, pa ≠ SifReg.addr d r) (w : Width) (v : BitVec 64) (s : State) :
    sifHandlerWrite d w pa v s = .done () (s.emit (.diag .write d w.bytes pa (some v))) := by
  rw [sifHandlerWrite, sifRegOfAddr_eq_none h]

end

/-! ### Register commands of the SIF (43_sif.md R359 to R365) -/

theorem sifAddr_aligned (d : Domain) (r : SifReg) : (SifReg.addr d r).toNat % Width.w32.bytes = 0 := by
  cases d <;> cases r <;> rfl

theorem bodyOf_sifWriteInstr (d : Domain) (r : SifReg) (v : Word) :
    bodyOf (sifWriteInstr d r v) = sifWriteCommand d r v := by
  cases r <;> rfl

section
variable {s : State} (hs : s.Live)
include hs

theorem exec_sifReadRegister (d : Domain) (r : SifReg) :
    exec (.sifReadRegister d r) s = .next { s with result := .word (s.sif.reg r) } :=
  exec_done (t := s.setResult .none) hs rfl

theorem exec_sifWriteInstr (d : Domain) (r : SifReg) (v : Word) :
    exec (sifWriteInstr d r v) s = .next { s with sif := s.sif.write d r v, result := .none } :=
  exec_done (t := (s.setResult .none).setSif (s.sif.write d r v)) hs (by rw [bodyOf_sifWriteInstr]; rfl)

end

/-! ### Commands whose body is an access through the SIF window -/

section
variable {i : Instr} {d : Domain} {w : Width} {va pa : Word} {r : SifReg} {s : State} (hs : s.Live)
include hs

theorem exec_read_sifWord (hb : bodyOf i = readCommand d .w32 va) (ha : va.toNat % Width.w32.bytes = 0)
    (hl : lookup d .read va s = .handler .sif (SifReg.addr d r)) :
    exec i s = .next { s with result := .word (s.sif.reg r) } := by
  rw [exec_read_done hs hb ((memRead_handler ha (by rwa [lookup_setResult])).trans
    ((handlerRead_sif ..).trans (sifHandlerRead_word ..))), resultOf_word]
  rfl

theorem exec_write_sifWord {v : Word} (hb : bodyOf i = writeCommand d .w32 va (v.setWidth 64))
    (ha : va.toNat % Width.w32.bytes = 0) (hl : lookup d .write va s = .handler .sif (SifReg.addr d r)) :
    exec i s = .next { s with sif := s.sif.write d r v, result := .none } :=
  exec_write_done hs hb ((memWrite_handler ha (by rwa [lookup_setResult]) _).trans
    ((handlerWrite_sif ..).trans (sifHandlerWrite_word ..)))

theorem raises_read_sifWidth (hw : w ≠ .w32) (hb : bodyOf i = readCommand d w va) (ha : va.toNat % w.bytes = 0)
    (hl : lookup d .read va s = .handler .sif (SifReg.addr d r)) :
    Raises i (.registerWidth (SifReg.addr d r) w) s := by
  have hm : memRead d w va (s.setResult .none) = .raised (.registerWidth (SifReg.addr d r) w) (s.setResult .none) :=
    (memRead_handler ha (by rwa [lookup_setResult])).trans ((handlerRead_sif ..).trans (sifHandlerRead_width hw ..))
  exact exec_raised (t := s.setResult .none) hs (by rw [hb, readCommand, hm, Reply.andThen_raised])

theorem raises_write_sifWidth {v : BitVec 64} (hw : w ≠ .w32) (hb : bodyOf i = writeCommand d w va v)
    (ha : va.toNat % w.bytes = 0) (hl : lookup d .write va s = .handler .sif (SifReg.addr d r)) :
    Raises i (.registerWidth (SifReg.addr d r) w) s := by
  have hm : memWrite d w va v (s.setResult .none) = .raised (.registerWidth (SifReg.addr d r) w) (s.setResult .none) :=
    (memWrite_handler ha (by rwa [lookup_setResult]) v).trans
      ((handlerWrite_sif ..).trans (sifHandlerWrite_width hw ..))
  exact exec_raised (t := s.setResult .none) hs
    (by rw [hb, writeCommand, hm, Reply.noResult, Reply.andThen_raised])

theorem exec_read_sifElsewhere (hr : ∀ r, pa ≠ SifReg.addr d r) (hb : bodyOf i = readCommand d w va)
    (ha : va.toNat % w.bytes = 0) (hl : lookup d .read va s = .handler .sif pa) :
    exec i s = .next { s with out := s.out ++ [.diag .read d w.bytes pa none], result := resultOf w 0 } :=
  exec_read_done hs hb ((memRead_handler ha (by rwa [lookup_setResult])).trans
    ((handlerRead_sif ..).trans (sifHandlerRead_elsewhere hr ..)))

theorem exec_write_sifElsewhere {v : BitVec 64} (hr : ∀ r, pa ≠ SifReg.addr d r) (hb : bodyOf i = writeCommand d w va v)
    (ha : va.toNat % w.bytes = 0) (hl : lookup d .write va s = .handler .sif pa) :
    exec i s = .next { s with out := s.out ++ [.diag .write d w.bytes pa (some v)], result := .none } :=
  exec_write_done hs hb ((memWrite_handler ha (by rwa [lookup_setResult]) v).trans
    ((handlerWrite_sif ..).trans (sifHandlerWrite_elsewhere hr ..)))

theorem exec_loadSif (d : Domain) (r : SifReg)
    (hl : lookup d .read (SifReg.addr d r) s = .handler .sif (SifReg.addr d r)) :
    exec (loadSif d r) s = .next { s with result := .word (s.sif.reg r) } :=
  exec_read_sifWord hs (bodyOf_loadSif d r) (sifAddr_aligned d r) hl

theorem exec_storeSif (d : Domain) (r : SifReg) (v : Word)
    (hl : lookup d .write (SifReg.addr d r) s = .handler .sif (SifReg.addr d r)) :
    exec (storeSif d r v) s = .next { s with sif := s.sif.write d r v, result := .none } :=
  exec_write_sifWord hs (bodyOf_storeSif d r v) (sifAddr_aligned d r) hl

end

end Sys2Proof.Machine

open Sys2Proof Sys2Proof.Machine

/-- Settles O9: the commands left over are those with `movesWords` false, whose bodies leave both FIFOs alone. -/
theorem onlyRunAndFifoCommandsMoveWords : Obligations.OnlyRunAndFifoCommandsMoveWords := by
  unfold Obligations.OnlyRunAndFifoCommandsMoveWords
  intro i s t h hrun hpush0 hpush1 hwide hpop0 hpop1
  have hmoves : movesWords i = false := by
    cases i
    case dmaRun => exact absurd rfl (hrun _)
    case writeSide0Fifo => exact absurd rfl (hpush0 _)
    case writeSide1FifoWord => exact absurd rfl (hpush1 _)
    case writeSide1FifoWide => exact absurd rfl (hwide _)
    case readSide0Fifo => exact absurd rfl hpop0
    case readSide1Fifo => exact absurd rfl hpop1
    all_goals rfl
  exact (exec_sameFifos hmoves h).fifo

/-- Settles O53: each push has one test of the room in its FIFO. -/
theorem fifoPushes : Obligations.FifoPushes := by
  unfold Obligations.FifoPushes
  intro s w v hs
  exact ⟨fun h => exec_push hs rfl (pushSide0_fits (s := s.setResult .none) h w),
    fun h => raises_push hs rfl (pushSide0_full (s := s.setResult .none) h w),
    fun h => exec_push hs rfl (pushSide1_fits (s := s.setResult .none) (ws := [w]) h),
    fun h => raises_push hs rfl (pushSide1_full (s := s.setResult .none) (ws := [w]) h),
    fun h => exec_push hs rfl (pushSide1_fits (s := s.setResult .none) (ws := wideWords v) h),
    fun h => raises_push hs rfl (pushSide1_full (s := s.setResult .none) (ws := wideWords v) h)⟩

/-- Settles O54: a pop has one test, of an empty queue, and a size command one value. -/
theorem fifoPopsAndSizes : Obligations.FifoPopsAndSizes := by
  unfold Obligations.FifoPopsAndSizes
  intro s w ws hs
  exact ⟨exec_popOf hs .side0, raises_popOf hs .side0, exec_popOf hs .side1, raises_popOf hs .side1,
    exec_done (t := s.setResult .none) hs rfl, exec_done (t := s.setResult .none) hs rfl⟩

/-- Settles O55: each command conserves the words of the FIFO, which starts empty. -/
theorem fifoOrderLaw : Obligations.FifoOrderLaw := by
  unfold Obligations.FifoOrderLaw
  intro side is s t popped _ hempty hrun h ht
  rw [poppedWords_conserved hrun h ht, hempty, List.nil_append]

/-- Settles O56: each row reaches its register, and runs as the register command. -/
theorem sifRegisterReads : Obligations.SifRegisterReads := by
  unfold Obligations.SifRegisterReads
  intro s side hs
  have hread := exec_sifReadRegister hs side
  exact ⟨hread .mscom, hread .smcom, hread .msflag, hread .smflag, hread .ctrl, hread .bd6,
    exec_loadSif hs .P .mscom, exec_loadSif hs .P .smcom, exec_loadSif hs .P .msflag, exec_loadSif hs .P .smflag,
    exec_loadSif hs .P .ctrl, exec_loadSif hs .P .bd6, exec_loadSif hs .S .mscom, exec_loadSif hs .S .smcom,
    exec_loadSif hs .S .msflag, exec_loadSif hs .S .smflag, exec_loadSif hs .S .ctrl, exec_loadSif hs .S .bd6⟩

/-- Settles O57: command and row leave the SIF that `Sif.write` gives for the side. -/
theorem sifRegisterWrites : Obligations.SifRegisterWrites := by
  unfold Obligations.SifRegisterWrites
  intro s side v hs
  have hwrite (d : Domain) (r : SifReg) := exec_sifWriteInstr hs d r v
  have hstore (d : Domain) (r : SifReg) := exec_storeSif hs d r v
  exact ⟨hwrite .P .mscom, hwrite .S .mscom, hwrite .S .smcom, hwrite .P .smcom, hwrite .P .msflag, hwrite .S .msflag,
    hwrite .S .smflag, hwrite .P .smflag, hwrite side .ctrl, hwrite side .bd6,
    hstore .P .mscom, hstore .S .mscom, hstore .S .smcom, hstore .P .smcom, hstore .P .msflag, hstore .S .msflag,
    hstore .S .smflag, hstore .P .smflag, hstore .P .ctrl, hstore .S .ctrl, hstore .P .bd6, hstore .S .bd6⟩

/-- Settles O58: an access through the window is the SIF handler's, which tests the address and then the width. -/
theorem sifWindowAccesses : Obligations.SifWindowAccesses := by
  unfold Obligations.SifWindowAccesses
  intro s d va pa hs
  refine ⟨fun hl => ⟨?_, fun hr => ?_⟩, fun hl => ⟨?_, fun hr => ?_⟩⟩
  · rintro r rfl
    have hwidth (w : Width) (hw : w ≠ .w32) {i : Instr} (hb : bodyOf i = readCommand d w va)
        (ha : va.toNat % w.bytes = 0) := raises_read_sifWidth hs hw hb ha hl
    exact ⟨fun ha => (exec_read_sifWord hs rfl ha hl).trans (exec_sifReadRegister hs d r).symm,
      hwidth .w8 (by decide) rfl (Nat.mod_one _), hwidth .w16 (by decide) rfl, hwidth .w64 (by decide) rfl⟩
  · have hread (w : Width) {i : Instr} (hb : bodyOf i = readCommand d w va) (ha : va.toNat % w.bytes = 0) :=
      exec_read_sifElsewhere hs hr hb ha hl
    exact ⟨hread .w8 rfl (Nat.mod_one _), hread .w16 rfl, hread .w32 rfl, hread .w64 rfl⟩
  · rintro r rfl
    have hwidth (w : Width) (hw : w ≠ .w32) {i : Instr} {v : BitVec 64} (hb : bodyOf i = writeCommand d w va v)
        (ha : va.toNat % w.bytes = 0) := raises_write_sifWidth hs hw hb ha hl
    exact ⟨fun ha v => (exec_write_sifWord hs rfl ha hl).trans (exec_sifWriteInstr hs d r v).symm,
      fun _ => hwidth .w8 (by decide) rfl (Nat.mod_one _), fun ha _ => hwidth .w16 (by decide) rfl ha,
      fun ha _ => hwidth .w64 (by decide) rfl ha⟩
  · have hwrite (w : Width) {i : Instr} {v : BitVec 64} (hb : bodyOf i = writeCommand d w va v)
        (ha : va.toNat % w.bytes = 0) := exec_write_sifElsewhere hs hr hb ha hl
    exact ⟨fun _ => hwrite .w8 rfl (Nat.mod_one _), fun ha _ => hwrite .w16 rfl ha, fun ha _ => hwrite .w32 rfl ha,
      fun ha _ => hwrite .w64 rfl ha⟩
end

section
/-! ## Interrupts, the COM registers, and two ends in one `Run` (60_exceptions.md R410 to R413, R420) -/

namespace Sys2Proof.Machine

/-! ### What a write does to the DMA controller -/

/-- A write leaves the controller's registers alone, or is a write of the DMA handler on domain S. -/
theorem memWrite_controller (d : Domain) (w : Width) (va : Word) (v : BitVec 64) (s : State) :
    SameController s (memWrite d w va v s).state ∨ ∃ pa, memWrite d w va v s = dmaWrite w pa v s := by
  by_cases hdma : ∃ pa, aligned w va = true ∧ lookup d .write va s = .handler .dma pa
  · obtain ⟨pa, ha, hl⟩ := hdma
    rw [memWrite_handler (aligned_iff.1 ha) hl]
    cases d
    · exact .inl (by rw [handlerWrite_opaque (.inr ⟨rfl, rfl⟩)]; exact emit_sameController s _)
    · exact .inr ⟨pa, rfl⟩
  · by_cases ha : aligned w va = true
    · exact .inl (memWrite_sameController (fun pa hl => hdma ⟨pa, ha, hl⟩) w v)
    · exact .inl (by rw [memWrite, if_neg ha]; exact .refl s)

/-! ### The commands that write, and what the others do -/

/-- The COM register that a domain writes (43_sif.md R360, R361). -/
def comReg : Domain → SifReg
  | .P => .mscom
  | .S => .smcom

/-- An access that may reach the COM register of its domain: a Word access at its address (43_sif.md R366). -/
def ReachesCom (d : Domain) (w : Width) (va : Word) : Prop := w = .w32 ∧ translate d va = SifReg.addr d (comReg d)

/-- The commands that write through an address space or a register command. The register rows other than those of the
COM registers, and the accesses of another width, stay away from the COM registers. -/
inductive IsWrite : Instr → Prop
  | elsewhere {i : Instr} {d : Domain} {w : Width} {va : Word} {v : BitVec 64} (ha : ¬ ReachesCom d w va)
      (hb : bodyOf i = writeCommand d w va v) : IsWrite i
  | word (d : Domain) (va v : Word) : IsWrite (.writeWord d va v)
  | quad (d : Domain) (va : Word) (v : BitVec 128) : IsWrite (.writeQuad d va v)
  | comRow (d : Domain) (v : Word) : IsWrite (storeSif d (comReg d) v)
  | dmaRegister (w : Width) (a : Word) (data : BitVec 64) : IsWrite (.dmaWriteRegister w a data)
  | sifRegister (d : Domain) (r : SifReg) (v : Word) : IsWrite (sifWriteInstr d r v)

/-- What the parts of the other commands keep: the reads, a change of a FIFO or of an address space, and `Reset`. -/
structure KeptByParts (R : State → State → Prop) : Prop where
  read {s t : State} : ReadFrame s t → R s t
  fifo (s : State) (side : FifoSide) (ws : List Word) : R s (s.setFifo side ws)
  space (s : State) (d : Domain) (as : AddrSpace) : R s (s.setSpace d as)
  reset (s : State) : R s (resetDma s)

theorem Reply.andThen_value_state {α β : Type} (r : Reply α) (g : α → β) :
    (r.andThen fun v s => .done (g v) s).state = r.state := by
  cases r <;> rfl

theorem not_reachesCom_of_width {w : Width} (hw : w ≠ .w32) (d : Domain) (va : Word) : ¬ ReachesCom d w va :=
  fun h => hw h.1

theorem not_reachesCom_channelAddr (w : Width) (slot off : BitVec 4) : ¬ ReachesCom .S w (channelAddr slot off) := by
  have h : ∀ slot off, translate .S (channelAddr slot off) ≠ SifReg.addr .S (comReg .S) := by decide
  exact fun hr => h slot off hr.2

section
variable {R : State → State → Prop} (hR : KeptByParts R) (s : State)
include hR

theorem KeptByParts.pushSide0_state (w : Word) : R s (pushSide0 w s).state := by
  unfold pushSide0
  split
  · exact hR.read (.refl s)
  · exact hR.fifo s .side0 _

theorem KeptByParts.pushSide1_state (ws : List Word) : R s (pushSide1 ws s).state := by
  unfold pushSide1
  split
  · exact hR.fifo s .side1 _
  · exact hR.read (.refl s)

theorem KeptByParts.popSide_state (side : FifoSide) : R s (popSide side s).state := by
  unfold popSide
  split
  · exact hR.read (.refl s)
  · exact hR.fifo ..

theorem KeptByParts.registerRegion_state (d : Domain) (vstart vend : Nat) (mask : Word) (st : Store) :
    R s (registerRegion d vstart vend mask st s).state := by
  rcases registerRegion_cases d vstart vend mask st s with ⟨c, e⟩ | ⟨-, -, -, e⟩ <;> rw [e]
  · exact hR.read (.refl s)
  · exact hR.space ..

theorem KeptByParts.registerHandler_state (d : Domain) (dir : Dir) (lo hi : Nat) (h : Handler) :
    R s (registerHandler d dir lo hi h s).state := by
  rcases registerHandler_cases d dir lo hi h s with e | e <;> rw [e]
  · exact hR.read (.refl s)
  · exact hR.space ..

end

/-- A command is `Run`, or writes, or keeps what the parts of the others keep. -/
theorem run_or_write_or_kept (i : Instr) : (∃ n, i = .dmaRun n) ∨ IsWrite i ∨
    ∀ {R : State → State → Prop}, KeptByParts R → ∀ s, R s (bodyOf i s).state := by
  cases i
  case dmaRun n => exact .inl ⟨n, rfl⟩
  case writeWord => exact .inr (.inl (.word ..))
  case writeQuad => exact .inr (.inl (.quad ..))
  case stMscomP v => exact .inr (.inl (.comRow .P v))
  case stSmcomS v => exact .inr (.inl (.comRow .S v))
  case dmaWriteRegister => exact .inr (.inl (.dmaRegister ..))
  case sifWriteMscom d v => exact .inr (.inl (.sifRegister d .mscom v))
  case sifWriteSmcom d v => exact .inr (.inl (.sifRegister d .smcom v))
  case sifWriteMsflag d v => exact .inr (.inl (.sifRegister d .msflag v))
  case sifWriteSmflag d v => exact .inr (.inl (.sifRegister d .smflag v))
  case sifWriteCtrl d v => exact .inr (.inl (.sifRegister d .ctrl v))
  case sifWriteBd6 d v => exact .inr (.inl (.sifRegister d .bd6 v))
  case writeByte | writeHalf | writeDouble =>
    exact .inr (.inl (.elsewhere (not_reachesCom_of_width (by decide) _ _) rfl))
  case stMadr | stBcr | stBcrCount | stChcr | stTadr =>
    exact .inr (.inl (.elsewhere (not_reachesCom_channelAddr _ _ _) rfl))
  case stDpcr | stDicr | stDpcr2 | stDicr2 | stDmacen | stDmacinten | stSmcomP | stMsflagP | stSmflagP | stCtrlP
      | stBd6P | stMscomS | stMsflagS | stSmflagS | stCtrlS | stBd6S =>
    exact .inr (.inl (.elsewhere (fun h => absurd h.2 (by decide)) rfl))
  all_goals refine .inr (.inr fun hR s => ?_)
  case registerRegion => exact hR.registerRegion_state ..
  case registerReadHandler | registerWriteHandler => exact hR.registerHandler_state ..
  case readQuad => exact hR.read (readQuad_readFrame ..)
  case translateVirtualAddress | validCodeRegion | getSide0FifoSize | getSide1FifoSize | sifReadRegister =>
    exact hR.read (.refl s)
  case dmaReset => exact hR.reset s
  case dmaReadRegister =>
    rw [bodyOf, Reply.andThen_value_state]
    exact hR.read (dmaRead_readFrame ..)
  case writeSide0Fifo =>
    rw [bodyOf, Reply.noResult_state]
    exact hR.pushSide0_state ..
  case writeSide1FifoWord | writeSide1FifoWide =>
    rw [bodyOf, Reply.noResult_state]
    exact hR.pushSide1_state ..
  case readSide0Fifo | readSide1Fifo =>
    rw [bodyOf, Reply.andThen_value_state]
    exact hR.popSide_state ..
  all_goals exact hR.read (readCommand_readFrame ..)

/-! ### Commands that call neither the interrupt controller nor the audio unit (60_exceptions.md R412) -/

/-- Between two states neither unit was called and no latch flag was set (60_exceptions.md R410, R411). -/
structure CallsNoUnit (s t : State) : Prop where
  noInterrupt : NoInterruptSent s t
  flags : ∀ h n, (t.latch h).flags.getLsbD n = true → (s.latch h).flags.getLsbD n = true

theorem CallsNoUnit.trans {s t u : State} (h : CallsNoUnit s t) (k : CallsNoUnit t u) : CallsNoUnit s u :=
  ⟨h.noInterrupt.trans k.noInterrupt, fun l n hn => h.flags l n (k.flags l n hn)⟩

theorem CallsNoUnit.of_latch {s t : State} (hn : NoInterruptSent s t) (hl : ∀ h, t.latch h = s.latch h) :
    CallsNoUnit s t := ⟨hn, fun h _ hf => hl h ▸ hf⟩

theorem CallsNoUnit.refl (s : State) : CallsNoUnit s s := .of_latch (.refl s) fun _ => rfl

theorem SameController.latch {s t : State} (h : SameController s t) (l : Half) : t.latch l = s.latch l := by
  cases l
  · exact h.latch0
  · exact h.latch1

theorem ReadFrame.callsNoUnit {s t : State} (h : ReadFrame s t) : CallsNoUnit s t :=
  .of_latch h.out h.sameController.latch

theorem raise_callsNoUnit (c : Cause) (who : Issued) (s : State) : CallsNoUnit s (raise c who s) := by
  rw [raise_frame]
  exact .of_latch (.of_out rfl) fun h => by cases h <;> rfl

/-- A latch write clears flags and sets none (41_dma_registers.md R271). -/
theorem writeCtrl_flags (r : CtrlReg) (v : Word) (s : State) (h : Half) (n : Nat)
    (hn : ((writeCtrl r v s).latch h).flags.getLsbD n = true) : (s.latch h).flags.getLsbD n = true := by
  have hclear (k : Half) (hk : ((s.setLatch k ((s.latch k).write v)).latch h).flags.getLsbD n = true) :
      (s.latch h).flags.getLsbD n = true := by
    by_contra hs
    rw [State.setLatch_latch] at hk
    split at hk
    · subst_vars
      rw [Latch.write_flags_le _ v n (Bool.eq_false_iff.2 hs)] at hk
      cases hk
    · exact hs hk
  cases r
  case dicr => exact hclear .h0 hn
  case dicr2 => exact hclear .h1 hn
  case dpcr | dpcr2 => simpa [writeCtrl] using hn
  case dmacen | dmacinten => cases h <;> exact hn

theorem dmaWrite_callsNoUnit (w : Width) (a : Word) (v : BitVec 64) (s : State) :
    CallsNoUnit s (dmaWrite w a v s).state := by
  refine ⟨(dmaWrite_writeFrame w a v s).noInterrupt, ?_⟩
  unfold dmaWrite
  split
  · exact writeCtrl_flags _ _ s
  · exact fun _ _ h => by simpa using h
  · exact fun _ _ h => h

theorem memWrite_callsNoUnit (d : Domain) (w : Width) (va : Word) (v : BitVec 64) (s : State) :
    CallsNoUnit s (memWrite d w va v s).state := by
  obtain h | ⟨pa, h⟩ := memWrite_controller d w va v s
  · exact .of_latch (memWrite_writeFrame d w va v s).noInterrupt h.latch
  · rw [h]
    exact dmaWrite_callsNoUnit w pa v s

theorem writeCommand_callsNoUnit (d : Domain) (w : Width) (va : Word) (v : BitVec 64) (s : State) :
    CallsNoUnit s (writeCommand d w va v s).state := by
  rw [writeCommand, Reply.noResult_state]
  exact memWrite_callsNoUnit ..

theorem writeQuad_callsNoUnit (d : Domain) (va : Word) (v : BitVec 128) (s : State) :
    CallsNoUnit s (writeQuad d va v s).state :=
  Reply.andThen_keeps CallsNoUnit.trans (quadCheck_readFrame ..).callsNoUnit fun _ _ =>
  Reply.andThen_keeps CallsNoUnit.trans (memWrite_callsNoUnit ..) fun _ _ =>
  Reply.andThen_keeps CallsNoUnit.trans (memWrite_callsNoUnit ..) fun _ _ =>
  Reply.andThen_keeps CallsNoUnit.trans (memWrite_callsNoUnit ..) fun _ _ => writeCommand_callsNoUnit ..

theorem callsNoUnit_keptByParts : KeptByParts CallsNoUnit where
  read h := h.callsNoUnit
  fifo s side ws := .of_latch (.of_out (s.setFifo_out side ws)) (s.setFifo_latch side ws)
  space s d as := .of_latch (.of_out (s.setSpace_out d as)) (s.setSpace_latch d as)
  reset s := ⟨.of_out rfl, fun h n hn => by cases h <;> simp [resetDma, State.latch, Latch.zero] at hn⟩

/-- A command that writes calls no unit. -/
theorem IsWrite.callsNoUnit {i : Instr} (h : IsWrite i) (s : State) : CallsNoUnit s (bodyOf i s).state := by
  cases h with
  | elsewhere _ hb =>
    rw [hb]
    exact writeCommand_callsNoUnit ..
  | comRow =>
    rw [bodyOf_storeSif]
    exact writeCommand_callsNoUnit ..
  | word => exact writeCommand_callsNoUnit ..
  | quad => exact writeQuad_callsNoUnit ..
  | dmaRegister =>
    rw [bodyOf, Reply.noResult_state]
    exact dmaWrite_callsNoUnit ..
  | sifRegister =>
    rw [bodyOf_sifWriteInstr]
    exact .of_latch (.of_out rfl) (s.setSif_latch _)

/-- No body but that of `Run` calls a unit. -/
theorem bodyOf_callsNoUnit {i : Instr} (hrun : ∀ n, i ≠ .dmaRun n) (s : State) :
    CallsNoUnit s (bodyOf i s).state := by
  obtain ⟨n, hn⟩ | hw | hkept := run_or_write_or_kept i
  · exact absurd hn (hrun n)
  · exact hw.callsNoUnit s
  · exact hkept callsNoUnit_keptByParts s

theorem exec_callsNoUnit {i : Instr} {s t : State} (hrun : ∀ n, i ≠ .dmaRun n) (h : exec i s = .next t) :
    CallsNoUnit s t :=
  exec_related h .refl (fun _ _ => .of_latch (.of_out rfl) fun _ => State.setResult_latch ..)
    (fun u c who => raise_callsNoUnit c who u) .trans (bodyOf_callsNoUnit hrun)

/-! ### The COM registers (60_exceptions.md R420) -/

/-- The COM register that the side of a domain writes. -/
def State.com (s : State) (d : Domain) : Word := s.sif.reg (comReg d)

/-- Two states with the same COM register of a domain. -/
def SameCom (d : Domain) (s t : State) : Prop := t.com d = s.com d

theorem SameCom.trans {d : Domain} {s t u : State} (h : SameCom d s t) (k : SameCom d t u) : SameCom d s u :=
  Eq.trans k h

theorem SameCom.of_sif {d : Domain} {s t : State} (h : t.sif = s.sif) : SameCom d s t :=
  congrArg (Sif.reg · (comReg d)) h

theorem raise_sameCom (d : Domain) (c : Cause) (who : Issued) (s : State) : SameCom d s (raise c who s) := by
  rw [raise_frame]
  exact .of_sif rfl

theorem sameCom_keptByParts (d : Domain) : KeptByParts (SameCom d) where
  read h := .of_sif h.sif
  fifo s side ws := by cases d <;> cases side <;> rfl
  space s d' as := .of_sif (s.setSpace_sif d' as)
  reset s := .of_sif rfl

/-- A SIF register write stores in a COM register only from its own side (43_sif.md R360, R361). -/
theorem Sif.write_com (f : Sif) (side d : Domain) (r : SifReg) (v : Word) : (f.write side r v).reg (comReg d) =
    if side = d ∧ r = comReg d then v else f.reg (comReg d) := by
  cases side <;> cases d <;> cases r <;> rfl

theorem sifWrite_com (d : Domain) (s : State) (side : Domain) (r : SifReg) (v : Word) :
    (s.setSif (s.sif.write side r v)).com d = if side = d ∧ r = comReg d then v else s.com d :=
  Sif.write_com s.sif side d r v

theorem sifReg_of_ofAddr {d : Domain} {pa : Word} {r : SifReg} (h : SifReg.ofAddr d pa = some r) :
    pa = SifReg.addr d r := (beq_iff_eq.1 (List.find?_some h :)).symm

theorem dmaWrite_sif (w : Width) (a : Word) (v : BitVec 64) (s : State) : (dmaWrite w a v s).state.sif = s.sif := by
  unfold dmaWrite
  split
  · rename_i r _
    cases r <;> rfl
  · rfl
  · rfl

/-- The SIF handler stores in a COM register only on a Word write at its address, from its own side (43_sif.md R366). -/
theorem sifHandlerWrite_com (d d' : Domain) (w : Width) (pa : Word) (v : BitVec 64) (s : State) :
    SameCom d' s (sifHandlerWrite d w pa v s).state ∨
    (d = d' ∧ w = .w32 ∧ pa = SifReg.addr d (comReg d) ∧
      (sifHandlerWrite d w pa v s).state.com d' = v.setWidth 32) := by
  unfold sifHandlerWrite
  split
  · rename_i r hr
    split
    · rename_i hw
      rw [Reply.state_done, SameCom, sifWrite_com]
      split
      · rename_i h
        obtain ⟨rfl, rfl⟩ := h
        exact .inr ⟨rfl, hw, sifReg_of_ofAddr hr, rfl⟩
      · exact .inl rfl
    · exact .inl rfl
  · exact .inl rfl

theorem lookup_handler_eq {d : Domain} {dir : Dir} {va pa : Word} {h : Handler} {s : State}
    (hl : lookup d dir va s = .handler h pa) : pa = translate d va := by
  unfold lookup at hl
  dsimp only at hl
  split at hl
  · cases hl
  · split at hl <;> cases hl
    rfl

/-- A write leaves a COM register alone, or reaches it from its own side and stores the value (43_sif.md R366). -/
theorem memWrite_com (d d' : Domain) (w : Width) (va : Word) (v : BitVec 64) (s : State) :
    SameCom d' s (memWrite d w va v s).state ∨
    (d = d' ∧ ReachesCom d w va ∧ (memWrite d w va v s).state.com d' = v.setWidth 32) := by
  unfold memWrite
  split
  · split
    · rw [Reply.state_done, State.storeLE_eq]
      exact .inl (.of_sif rfl)
    · exact .inl (.of_sif rfl)
    · rename_i h pa hl
      cases h with
      | dma =>
        cases d
        · exact .inl (.of_sif rfl)
        · exact .inl (.of_sif (dmaWrite_sif ..))
      | device n =>
        rw [handlerWrite_opaque (.inl ⟨n, rfl⟩)]
        exact .inl (.of_sif rfl)
      | sif =>
        rw [handlerWrite_sif]
        refine (sifHandlerWrite_com ..).imp_right fun ⟨hd, hw, hpa, hv⟩ => ⟨hd, ⟨hw, ?_⟩, hv⟩
        rw [← lookup_handler_eq hl, hpa]
    · exact .inl (.of_sif rfl)
  · exact .inl (.of_sif rfl)

theorem memWrite_sameCom {d d' : Domain} {w : Width} {va : Word} (h : d = d' → ¬ ReachesCom d w va) (v : BitVec 64)
    (s : State) : SameCom d' s (memWrite d w va v s).state :=
  (memWrite_com d d' w va v s).resolve_right fun ⟨hd, hr, _⟩ => h hd hr

theorem writeCommand_sameCom {d d' : Domain} {w : Width} {va : Word} (h : d = d' → ¬ ReachesCom d w va) (v : BitVec 64)
    (s : State) : SameCom d' s (writeCommand d w va v s).state := by
  rw [writeCommand, Reply.noResult_state]
  exact memWrite_sameCom h v s

theorem writeQuad_sameCom {d d' : Domain} (h : d ≠ d') (va : Word) (v : BitVec 128) (s : State) :
    SameCom d' s (writeQuad d va v s).state :=
  have hne {a : Word} : d = d' → ¬ ReachesCom d .w32 a := fun hd => absurd hd h
  Reply.andThen_keeps SameCom.trans ((sameCom_keptByParts d').read (quadCheck_readFrame ..)) fun _ _ =>
  Reply.andThen_keeps SameCom.trans (memWrite_sameCom hne ..) fun _ _ =>
  Reply.andThen_keeps SameCom.trans (memWrite_sameCom hne ..) fun _ _ =>
  Reply.andThen_keeps SameCom.trans (memWrite_sameCom hne ..) fun _ _ => writeCommand_sameCom hne ..

/-- The commands that may change the COM register of a domain. -/
inductive WritesCom : Domain → Instr → Prop
  | register (d : Domain) (v : Word) : WritesCom d (sifWriteInstr d (comReg d) v)
  | row (d : Domain) (v : Word) : WritesCom d (storeSif d (comReg d) v)
  | word (d : Domain) (va v : Word) : WritesCom d (.writeWord d va v)
  | quad (va : Word) (v : BitVec 128) : WritesCom .P (.writeQuad .P va v)

theorem IsWrite.sameCom {i : Instr} (h : IsWrite i) {d : Domain} (hi : ¬ WritesCom d i) (s : State) :
    SameCom d s (bodyOf i s).state := by
  cases h with
  | elsewhere ha hb =>
    rw [hb]
    exact writeCommand_sameCom (fun _ => ha) ..
  | word d' va v => exact writeCommand_sameCom (fun hd => absurd (hd ▸ .word d' va v) hi) ..
  | quad d' va v =>
    cases d' with
    | S =>
      rw [bodyOf, writeQuad, quadCheck_secondary, Reply.andThen_raised]
      exact .of_sif rfl
    | P =>
      refine writeQuad_sameCom ?_ ..
      rintro rfl
      exact hi (.quad va v)
  | comRow d' v =>
    rw [bodyOf_storeSif]
    exact writeCommand_sameCom (fun hd => absurd (hd ▸ .row d' v) hi) ..
  | dmaRegister =>
    rw [bodyOf, Reply.noResult_state]
    exact .of_sif (dmaWrite_sif ..)
  | sifRegister d' r v =>
    rw [bodyOf_sifWriteInstr]
    refine (sifWrite_com d s d' r v).trans (if_neg ?_)
    rintro ⟨rfl, rfl⟩
    exact hi (.register d' v)

/-- No body but those of `Run` and of the writers of a COM register changes it. -/
theorem bodyOf_sameCom {i : Instr} {d : Domain} (hrun : ∀ n, i ≠ .dmaRun n) (hi : ¬ WritesCom d i) (s : State) :
    SameCom d s (bodyOf i s).state := by
  obtain ⟨n, hn⟩ | hw | hkept := run_or_write_or_kept i
  · exact absurd hn (hrun n)
  · exact hw.sameCom hi s
  · exact hkept (sameCom_keptByParts d) s

theorem exec_sameCom {i : Instr} {d : Domain} {s t : State} (hrun : ∀ n, i ≠ .dmaRun n) (hi : ¬ WritesCom d i)
    (h : exec i s = .next t) : SameCom d s t :=
  exec_related h (fun _ => rfl) (fun _ _ => .of_sif rfl) (fun u c who => raise_sameCom d c who u) .trans
    (bodyOf_sameCom hrun hi)

/-! ### The COM registers in a `Run` (42_dma_transfer.md R322) -/

/-- The base of every channel is as before, or within 24 bits. -/
def BasesKept (s t : State) : Prop := ∀ c, (t.chan c).base = (s.chan c).base ∨ (t.chan c).base.toNat < 2 ^ 24

/-- A word that FIFO side 1 held stands in SMCOM, at whose address the base of an inbound channel stood. -/
def InboundToSmcom (s t : State) : Prop :=
  ∃ c, s.kind c = .inbound ∧ translate .S (s.chan c).base = SifReg.addr .S .smcom ∧ t.com .S ∈ s.fifo .side1

/-- What the steps of a `Run` do that bears on the COM registers: they change no kind, give a channel no base above 24
bits, add nothing to FIFO side 1, leave MSCOM, and put nothing into SMCOM but an inbound word. -/
structure RunEffect (s t : State) : Prop where
  kind : ∀ c, t.kind c = s.kind c
  base : BasesKept s t
  fifo : t.fifo .side1 ⊆ s.fifo .side1
  mscom : SameCom .P s t
  smcom : SameCom .S s t ∨ InboundToSmcom s t

theorem translate_ne_smcom {a : Word} (h : a.toNat < 2 ^ 24) : translate .S a ≠ SifReg.addr .S .smcom := by
  intro ha
  have hnat := congrArg BitVec.toNat ha
  rw [toNat_translate, if_neg (by simp), show (SifReg.addr .S .smcom).toNat = 0x1D000010 from rfl] at hnat
  omega

theorem RunEffect.trans {s t u : State} (h : RunEffect s t) (k : RunEffect t u) : RunEffect s u where
  kind c := (k.kind c).trans (h.kind c)
  base c := (k.base c).elim (fun e => e ▸ h.base c) .inr
  fifo := List.Subset.trans k.fifo h.fifo
  mscom := h.mscom.trans k.mscom
  smcom := by
    obtain hsame | ⟨c, hk, ha, hw⟩ := k.smcom
    · rw [SameCom, InboundToSmcom, hsame]
      exact h.smcom
    · have hbase := (h.base c).resolve_right fun hlt => translate_ne_smcom hlt ha
      exact .inr ⟨c, (h.kind c).symm.trans hk, hbase ▸ ha, h.fifo hw⟩

/-- A part that leaves the SIF registers and adds nothing to FIFO side 1. -/
theorem RunEffect.of_sameCom {s t : State} (hp : t.params = s.params) (hb : BasesKept s t)
    (hf : t.fifo .side1 ⊆ s.fifo .side1) (hcom : ∀ d, SameCom d s t) : RunEffect s t :=
  ⟨fun c => by rw [State.kind, hp, State.kind], hb, hf, hcom .P, .inl (hcom .S)⟩

theorem RunEffect.of_sif {s t : State} (hp : t.params = s.params) (hb : BasesKept s t) (h : t.sif = s.sif) :
    RunEffect s t :=
  .of_sameCom hp hb (by rw [(SameFifos.of_sif h).fifo]; exact List.Subset.refl _) fun _ => .of_sif h

theorem RunEffect.refl (s : State) : RunEffect s s := .of_sif rfl (fun _ => .inl rfl) rfl

theorem ReadFrame.runEffect {s t : State} (h : ReadFrame s t) : RunEffect s t :=
  .of_sif h.keeps.params (fun c => .inl (congrArg Channel.base (h.sameController.chan c))) h.sif

theorem setChan_runEffect (s : State) (c : Fin 13) (v : Channel)
    (hv : v.base = (s.chan c).base ∨ v.base.toNat < 2 ^ 24) : RunEffect s (s.setChan c v) := by
  refine .of_sif rfl (fun c' => ?_) rfl
  rw [State.setChan_chan]
  split
  · subst_vars
    exact hv
  · exact .inl rfl

theorem append_runEffect (s : State) (ws : List Word) : RunEffect s (s.append .side0 ws) :=
  .of_sameCom (s.append_params ..) (fun _ => .inl rfl) (List.Subset.refl _) fun d => by cases d <;> rfl

theorem setFifo_runEffect (s : State) {ws : List Word} (h : ws ⊆ s.fifo .side1) : RunEffect s (s.setFifo .side1 ws) :=
  .of_sameCom (s.setFifo_params ..) (fun _ => .inl rfl) h fun d => by cases d <;> rfl

theorem endTransfer_runEffect (c : Fin 13) (s : State) : RunEffect s (endTransfer c s) := by
  refine .of_sif (endTransfer_keeps c s).params (fun c' => .inl ?_) (by simp [endTransfer])
  rw [endTransfer_chan]
  split
  · subst_vars
    rfl
  · rfl

/-- A register write gives a channel's base 24 bits, or leaves it (41_dma_registers.md R242). -/
theorem writeChan_base (r : ChanReg) (v : Word) (ch : Channel) :
    (writeChan r v ch).base = ch.base ∨ (writeChan r v ch).base.toNat < 2 ^ 24 := by
  cases r
  case madr => exact .inr (and_baseMask_lt v)
  all_goals exact .inl rfl

theorem dmaWrite_basesKept (w : Width) (a : Word) (v : BitVec 64) (s : State) :
    BasesKept s (dmaWrite w a v s).state := by
  intro c
  unfold dmaWrite
  split
  · rename_i r _
    cases r <;> exact .inl rfl
  · rename_i r c' _
    exact (setChan_runEffect s c' _ (writeChan_base r _ _)).base c
  · exact .inl rfl

theorem memWrite_basesKept (d : Domain) (w : Width) (va : Word) (v : BitVec 64) (s : State) :
    BasesKept s (memWrite d w va v s).state := by
  obtain h | ⟨pa, h⟩ := memWrite_controller d w va v s
  · exact fun c => .inl (congrArg Channel.base (h.chan c))
  · rw [h]
    exact dmaWrite_basesKept w pa v s

/-! ### Each step of a `Run` -/

section
variable (c : Fin 13) (s : State)

theorem streamStep_runEffect : RunEffect s (streamStep c s).state := by
  have hcount := setChan_runEffect s c { s.chan c with count := (s.chan c).count - 1 } (.inl rfl)
  unfold streamStep
  dsimp only
  split
  · exact endTransfer_runEffect c s
  · rw [Reply.state_done]
    split
    · exact hcount.trans (endTransfer_runEffect c _)
    · exact hcount

theorem outTag_runEffect : RunEffect s (outTag c s).state := by
  unfold outTag
  split
  · refine Reply.andThen_keeps RunEffect.trans (memRead_readFrame ..).runEffect fun _ s => ?_
    refine Reply.andThen_keeps RunEffect.trans (memRead_readFrame ..).runEffect fun _ s => ?_
    refine Reply.andThen_keeps RunEffect.trans (memRead_readFrame ..).runEffect fun _ s => ?_
    refine Reply.andThen_keeps RunEffect.trans (memRead_readFrame ..).runEffect fun _ s => ?_
    exact (append_runEffect s _).trans (setChan_runEffect _ c _ (.inr (loadTag_base_lt ..)))
  · exact .refl s

theorem outData_runEffect : RunEffect s (outData c s).state := by
  unfold outData
  split
  · refine Reply.andThen_keeps RunEffect.trans (memRead_readFrame ..).runEffect fun _ s => ?_
    exact (append_runEffect s _).trans (setChan_runEffect _ c _ (.inr (advance_base_lt _)))
  · exact .refl s

theorem outStep_runEffect : RunEffect s (outStep c s).state := by
  unfold outStep
  split
  · exact outData_runEffect c s
  · split
    · exact endTransfer_runEffect c s
    · exact outTag_runEffect c s

theorem inTag_runEffect : RunEffect s (inTag c s).state := by
  unfold inTag
  split
  · rename_i lo hi p q rest hf
    have hrest : rest ⊆ s.fifo .side1 := by
      rw [hf]
      exact (List.suffix_append [lo, hi, p, q] rest).subset
    exact (setFifo_runEffect s hrest).trans (setChan_runEffect _ c _ (.inr (loadTag_base_lt ..)))
  · exact .refl s

/-- The write of an inbound word reaches SMCOM only where the channel's base stands at its address. -/
theorem inboundWrite_runEffect {w : Word} {rest : List Word} (hk : s.kind c = .inbound)
    (hf : s.fifo .side1 = w :: rest) :
    RunEffect s (memWrite .S .w32 (s.chan c).base (w.setWidth 64) (s.setFifo .side1 rest)).state := by
  have hrest : rest ⊆ s.fifo .side1 := by
    rw [hf]
    exact List.subset_cons_self w rest
  have hpop := setFifo_runEffect s hrest
  have hframe := memWrite_writeFrame .S .w32 (s.chan c).base (w.setWidth 64) (s.setFifo .side1 rest)
  refine ⟨fun k => ?_, fun k => ?_, ?_, ?_, ?_⟩
  · rw [State.kind, hframe.keeps.params]
    exact hpop.kind k
  · exact memWrite_basesKept .S .w32 (s.chan c).base (w.setWidth 64) (s.setFifo .side1 rest) k
  · rw [hframe.fifo]
    exact hpop.fifo
  · exact hpop.mscom.trans (memWrite_sameCom (by simp) ..)
  · obtain hsame | ⟨-, ⟨-, ha⟩, hw⟩ := memWrite_com .S .S .w32 (s.chan c).base (w.setWidth 64) (s.setFifo .side1 rest)
    · exact .inl (SameCom.trans (t := s.setFifo .side1 rest) rfl hsame)
    · refine .inr ⟨c, hk, ha, ?_⟩
      rw [hw, setWidth_word_data, hf]
      exact List.mem_cons_self

theorem inStep_runEffect (hk : s.kind c = .inbound) : RunEffect s (inStep c s).state := by
  unfold inStep inData
  split
  · split
    · exact .refl s
    · rename_i hf
      refine Reply.andThen_keeps RunEffect.trans (inboundWrite_runEffect c s hk hf) fun _ s => ?_
      exact setChan_runEffect s c _ (.inr (advance_base_lt _))
  · split
    · exact endTransfer_runEffect c s
    · exact inTag_runEffect c s

theorem stepChannel_runEffect : RunEffect s (stepChannel c s).state := by
  unfold stepChannel
  split
  · exact streamStep_runEffect c s
  · exact outStep_runEffect c s
  · rename_i hk
    exact inStep_runEffect c s hk
  · exact .refl s

end

theorem runChannels_runEffect (cs : List (Fin 13)) (s : State) : RunEffect s (runChannels cs s).state := by
  induction cs generalizing s with
  | nil => exact .refl s
  | cons c cs ih =>
    unfold runChannels
    split
    · exact Reply.andThen_keeps RunEffect.trans (stepChannel_runEffect c s) fun _ => ih
    · exact ih s

theorem exec_dmaRun_runEffect {n : Nat} {s t : State} (h : exec (.dmaRun n) s = .next t) : RunEffect s t := by
  refine exec_related h .refl (fun u r => .of_sif rfl (fun _ => .inl rfl) rfl) (fun u c who => ?_) .trans fun u => ?_
  · rw [raise_frame]
    exact .of_sif rfl (fun _ => .inl rfl) rfl
  · rw [bodyOf, Reply.noResult_state]
    exact runChannels_runEffect allChannels u

/-- In a good state no base stands at SMCOM's address (10_state.md R40). -/
theorem RunEffect.smcom_of_inv {s t : State} (h : RunEffect s t) (hi : Inv s) : SameCom .S s t :=
  h.smcom.resolve_right fun ⟨c, _, ha, _⟩ => translate_ne_smcom (hi.base_masked c) ha

/-! ### Several steps in one `Run` (42_dma_transfer.md R300) -/

/-- In a rising list of channels the first eligible one steps, and then the loop goes on with the channels above it. -/
theorem runChannels_first {c : Fin 13} {s : State} (hc : s.eligible c = true) {cs : List (Fin 13)}
    (hsorted : cs.Pairwise (· < ·)) (hmem : c ∈ cs) (hbefore : ∀ x ∈ cs, x < c → s.eligible x = false) :
    runChannels cs s = (stepChannel c s).andThen fun _ s => runChannels (cs.filter (c < ·)) s := by
  induction cs with
  | nil => cases hmem
  | cons x cs ih =>
    obtain ⟨hx, hrest⟩ := List.pairwise_cons.1 hsorted
    rcases List.mem_cons.1 hmem with rfl | hmem
    · have hall : (c :: cs).filter (c < ·) = cs := by
        rw [List.filter_cons_of_neg (by simp)]
        exact List.filter_eq_self.2 fun y hy => decide_eq_true (hx y hy)
      rw [hall, runChannels, if_pos hc]
    · have hxc := hx c hmem
      have hpass : runChannels (x :: cs) s = runChannels cs s :=
        runChannels_skip [x] cs fun y hy => by
          rw [List.mem_singleton.1 hy]
          exact hbefore x List.mem_cons_self hxc
      rw [hpass, List.filter_cons_of_neg (by simpa using hxc.le)]
      exact ih hrest hmem fun y hy => hbefore y (List.mem_cons_of_mem _ hy)

/-- The state that the end of a transfer of channel `c` leaves, from its last step on. -/
def afterEnd (c : Fin 13) (s : State) : State := endTransfer c ((s.zeroCount c).setResult .none)

theorem afterEnd_eligible {c c' : Fin 13} (hc : c' ≠ c) (s : State) :
    (afterEnd c s).eligible c' = s.eligible c' := by
  rw [afterEnd, endTransfer_eligible hc, State.setResult_eligible, zeroCount_eligible]

theorem transferEnded_afterEnd (c : Fin 13) (s : State) : TransferEnded c (s.zeroCount c) (afterEnd c s) :=
  transferEnded_endTransfer c (s.zeroCount c)

theorem afterEnd_result (c : Fin 13) (s : State) : (afterEnd c s).result = .none :=
  endTransfer_sameResult c ((s.zeroCount c).setResult .none)

theorem stepChannel_afterEnd {c : Fin 13} {s : State} (h : EndsNow c s) (hr : s.result = .none) :
    stepChannel c s = .done () (afterEnd c s) := by
  have hz : (s.zeroCount c).setResult .none = s.zeroCount c := setResult_of_eq (s := s.zeroCount c) hr
  rw [stepChannel_of_endsNow h, afterEnd, hz]

theorem afterEnd_chan {c c' : Fin 13} (hc : c' ≠ c) (s : State) : (afterEnd c s).chan c' = s.chan c' := by
  rw [afterEnd, endTransfer_chan, if_neg hc, State.setResult_chan, State.zeroCount_eq_setChan, State.setChan_chan,
    if_neg hc]

theorem afterEnd_kind (c c' : Fin 13) (s : State) : (afterEnd c s).kind c' = s.kind c' := by
  simp [afterEnd, endTransfer, State.zeroCount_eq_setChan]

/-- The end of one transfer leaves another channel at its ending step. -/
theorem endsNow_afterEnd {c c' : Fin 13} (hc : c' ≠ c) {s : State} (h : EndsNow c' s) : EndsNow c' (afterEnd c s) := by
  rwa [EndsNow, afterEnd_chan hc, afterEnd_kind]

/-- When two channels end, `Run` is the end of the lower one and then of the higher one. -/
theorem runChannels_twoEnds {c c' : Fin 13} {s : State} (hlt : c < c')
    (honly : ∀ x, s.eligible x = decide (x = c ∨ x = c')) (hc : EndsNow c s) (hc' : EndsNow c' s)
    (hr : s.result = .none) : runChannels allChannels s = .done () (afterEnd c' (afterEnd c s)) := by
  have hsorted : allChannels.Pairwise (· < ·) := by decide
  have hall (x : Fin 13) : x ∈ allChannels := by revert x; decide
  have habove {cs : List (Fin 13)} {k x : Fin 13} (hx : x ∈ cs.filter (k < ·)) : k < x := by
    simpa using (List.mem_filter.1 hx).2
  have helig (x : Fin 13) (hx : x ≠ c) : (afterEnd c s).eligible x = decide (x = c') := by
    rw [afterEnd_eligible hx, honly]
    simp [hx]
  have hlower := runChannels_first (c := c) (s := s) (by simp [honly]) hsorted (hall c) fun x _ hx => by
    rw [honly, decide_eq_false (not_or.2 ⟨hx.ne, (hx.trans hlt).ne⟩)]
  have hhigher := runChannels_first (c := c') (s := afterEnd c s) (by simp [helig c' hlt.ne'])
    (hsorted.filter (c < ·)) (List.mem_filter.2 ⟨hall c', decide_eq_true hlt⟩) fun x hx hxc => by
      rw [helig x (habove hx).ne', decide_eq_false hxc.ne]
  rw [hlower, stepChannel_afterEnd hc hr, Reply.andThen_done, hhigher,
    stepChannel_afterEnd (endsNow_afterEnd hlt.ne' hc') (afterEnd_result c s), Reply.andThen_done]
  refine runChannels_none _ fun x hx => ?_
  have hgt := habove hx
  rw [afterEnd_eligible hgt.ne', helig x (hlt.trans hgt).ne', decide_eq_false hgt.ne']

end Sys2Proof.Machine

open Sys2Proof Sys2Proof.Machine

/-- Settles O8: no part of a command but the end of a transfer calls a unit or sets a flag. -/
theorem onlyRunInterrupts : Obligations.OnlyRunInterrupts := by
  unfold Obligations.OnlyRunInterrupts
  intro i s t h hrun
  obtain ⟨⟨es, hout, hnone⟩, hflags⟩ := exec_callsNoUnit hrun h
  have habsent (e : Event) (he : e.isInterrupt = true) : e ∉ es := fun hmem => by simp [hnone e hmem] at he
  exact ⟨⟨es, hout, habsent .irqRequest rfl, fun c => habsent (.audioNotify c) rfl⟩, hflags⟩

/-- Settles O10: a write stores in a COM register only from its own side, and a `Run` writes words of FIFO side 1
through side S, at bases that no step makes longer than 24 bits. -/
theorem comRegistersWrittenOnlyFromTheirSide : Obligations.ComRegistersWrittenOnlyFromTheirSide := by
  unfold Obligations.ComRegistersWrittenOnlyFromTheirSide
  intro i s t h
  by_cases hrun : ∃ n, i = .dmaRun n
  · obtain ⟨n, rfl⟩ := hrun
    have heffect := exec_dmaRun_runEffect h
    refine ⟨fun hne => absurd heffect.mscom hne, fun hne => ?_, fun hi _ => heffect.smcom_of_inv hi⟩
    obtain ⟨c, hk, ha, hw⟩ := heffect.smcom.resolve_left hne
    exact .inr (.inr (.inr ⟨n, c, rfl, hk, ha, hw⟩))
  · have hwriter {d : Domain} (hne : t.com d ≠ s.com d) : WritesCom d i :=
      by_contra fun hi => hne (exec_sameCom (fun n hn => hrun ⟨n, hn⟩) hi h)
    refine ⟨fun hne => ?_, fun hne => ?_, fun _ hn => absurd hn hrun⟩
    · cases hwriter (d := .P) hne with
      | register _ v => exact .inl ⟨v, rfl⟩
      | row _ v => exact .inr (.inl ⟨v, rfl⟩)
      | word _ va v => exact .inr (.inr (.inl ⟨va, v, rfl⟩))
      | quad va v => exact .inr (.inr (.inr ⟨va, v, rfl⟩))
    · cases hwriter (d := .S) hne with
      | register _ v => exact .inl ⟨v, rfl⟩
      | row _ v => exact .inr (.inl ⟨v, rfl⟩)
      | word _ va v => exact .inr (.inr (.inl ⟨va, v, rfl⟩))

/-- Settles O44: the end of the lower transfer leaves the higher channel eligible and at its ending step. -/
theorem twoEndsInOneRun : Obligations.TwoEndsInOneRun := by
  unfold Obligations.TwoEndsInOneRun
  intro s c c' n hs hlt honly hc hc'
  have hrun := runChannels_twoEnds (s := s.setResult .none) hlt
    (fun x => (s.setResult_eligible .none x).trans (honly x)) hc hc' rfl
  exact ⟨_, _, exec_dmaRun_done hs hrun n, transferEnded_afterEnd c s, transferEnded_afterEnd c' _⟩
end

section
/-! ## Power-on, `Reset`, and transfers that end on time (70_reset_and_hazards.md R450 to R453, R481) -/

namespace Sys2Proof.Machine

/-! ### `Reset` (70_reset_and_hazards.md R450) -/

theorem exec_dmaReset {s : State} (hs : s.Live) : exec .dmaReset s = .next ((resetDma s).setResult .none) :=
  exec_done (v := .none) (t := resetDma (s.setResult .none)) hs rfl

theorem exec_frozen {s : State} {r : FaultRecord} (h : s.fault = some r) (i : Instr) : exec i s = .next s := by
  rw [exec_eq, runCommand_frozen h]

theorem resetDma_chan (s : State) (c : Fin 13) : (resetDma s).chan c = Channel.zero :=
  Vector.getElem_replicate c.isLt

theorem resetDma_latch (s : State) (h : Half) : (resetDma s).latch h = Latch.zero := by
  cases h <;> rfl

theorem reset_chan (c : Fin 13) : State.reset.chan c = Channel.zero := Vector.getElem_replicate c.isLt

theorem Latch.zero_masterFlag : Latch.zero.masterFlag = false := by decide

/-! ### Several `Run`s in sequence -/

theorem execAll_append (is js : List Instr) (s : State) : execAll (is ++ js) s = (execAll is s).bind (execAll js) := by
  induction is generalizing s with
  | nil => rfl
  | cons i is ih =>
    rw [List.cons_append, execAll, execAll]
    cases exec i s with
    | next t => exact ih t
    | fault _ => rfl
    | refused _ => rfl

theorem execAll_replicate_succ {i : Instr} {n : Nat} {s t u : State} (h : execAll (List.replicate n i) s = some t)
    (hlast : exec i t = .next u) : execAll (List.replicate (n + 1) i) s = some u := by
  rw [List.replicate_succ', execAll_append, h, Option.bind_some, execAll_cons_next hlast, execAll]

/-! ### One channel transfers, and its updates -/

/-- The block is live, and channel `c`, of kind `k`, alone is eligible. -/
structure Transfers (c : Fin 13) (k : Kind) (s : State) : Prop where
  live : s.Live
  only : OnlyEligible c s
  kind : s.kind c = k

theorem setChan_chan_self (s : State) (c : Fin 13) : s.setChan c (s.chan c) = s :=
  congrArg (fun ch => { s with ch := ch }) (Vector.set_getElem_self ..)

theorem setChan_setChan (s : State) (c : Fin 13) (v w : Channel) : (s.setChan c v).setChan c w = s.setChan c w :=
  congrArg (fun ch => { s with ch := ch }) (Vector.set_set ..)

/-- A change of a channel that keeps CHCR makes no channel eligible, and none ineligible. -/
theorem setChan_eligible_of_control {s : State} {c : Fin 13} {v : Channel} (hv : v.control = (s.chan c).control)
    (c' : Fin 13) : (s.setChan c v).eligible c' = s.eligible c' := by
  by_cases hc : c' = c
  · subst hc
    simp [State.eligible, State.enableBit, hv]
  · exact setChan_eligible hc s v

theorem Transfers.setChan {c : Fin 13} {k : Kind} {s : State} (h : Transfers c k s) {v : Channel}
    (hv : v.control = (s.chan c).control) : Transfers c k (s.setChan c v) :=
  ⟨h.live, fun c' => (setChan_eligible_of_control hv c').trans (h.only c'), h.kind⟩

theorem Transfers.setResult {c : Fin 13} {k : Kind} {s : State} (h : Transfers c k s) (r : Result) :
    Transfers c k (s.setResult r) :=
  ⟨h.live, fun c' => (s.setResult_eligible r c').trans (h.only c'), h.kind⟩

/-! ### A streaming transfer (42_dma_transfer.md R305) -/

/-- The state with the count of a channel lowered by `k`. -/
def State.countedDown (s : State) (c : Fin 13) (k : Nat) : State :=
  s.setChan c { s.chan c with count := (s.chan c).count - BitVec.ofNat 16 k }

theorem countedDown_chan (s : State) (c : Fin 13) (k : Nat) : (s.countedDown c k).chan c =
    { s.chan c with count := (s.chan c).count - BitVec.ofNat 16 k } := by
  rw [State.countedDown, State.setChan_chan, if_pos rfl]

theorem countedDown_count {s : State} {c : Fin 13} {k : Nat} (hk : k ≤ (s.chan c).count.toNat) :
    ((s.countedDown c k).chan c).count.toNat = (s.chan c).count.toNat - k := by
  have hlt := (s.chan c).count.isLt
  rw [countedDown_chan, BitVec.toNat_sub_of_le (by rw [BitVec.le_def, BitVec.toNat_ofNat]; omega), BitVec.toNat_ofNat,
    Nat.mod_eq_of_lt (by omega)]

theorem countedDown_zero (s : State) (c : Fin 13) : s.countedDown c 0 = s := by
  rw [State.countedDown, BitVec.sub_zero, setChan_chan_self]

theorem countedDown_succ (s : State) (c : Fin 13) (k : Nat) : (s.countedDown c k).setChan c
    { (s.countedDown c k).chan c with count := ((s.countedDown c k).chan c).count - 1 } = s.countedDown c (k + 1) := by
  have hcount : (s.chan c).count - BitVec.ofNat 16 k - 1 = (s.chan c).count - BitVec.ofNat 16 (k + 1) := by bv_omega
  rw [countedDown_chan, State.countedDown, setChan_setChan]
  simp only [hcount, State.countedDown]

theorem countedDown_zeroCount (s : State) (c : Fin 13) (k : Nat) : (s.countedDown c k).zeroCount c = s.zeroCount c := by
  rw [State.zeroCount_eq_setChan, countedDown_chan, State.countedDown, setChan_setChan, State.zeroCount_eq_setChan]

theorem Transfers.countedDown {c : Fin 13} {kind : Kind} {s : State} (h : Transfers c kind s) (k : Nat) :
    Transfers c kind (s.countedDown c k) :=
  h.setChan (v := { s.chan c with count := (s.chan c).count - BitVec.ofNat 16 k }) rfl

/-- Before its last one, each `Run` lowers the count by one and does nothing else. -/
theorem execAll_runs_streaming {s : State} {c : Fin 13} (hs : Transfers c .streaming s) {k : Nat}
    (hk : k < max 1 (s.chan c).count.toNat) : ∃ r,
      execAll (List.replicate k (.dmaRun 1)) s = some ((s.countedDown c k).setResult r) := by
  induction k with
  | zero => exact ⟨s.result, by rw [countedDown_zero]; rfl⟩
  | succ k ih =>
    obtain ⟨r, hr⟩ := ih (by omega)
    have hnow : Transfers c .streaming ((s.countedDown c k).setResult r) := (hs.countedDown k).setResult r
    have hcount : 2 ≤ (((s.countedDown c k).setResult r).chan c).count.toNat := by
      rw [State.setResult_chan, countedDown_count (by omega)]
      omega
    have hrun := (streamingStepCountsDown _ c hnow.live hnow.kind hcount).2 hnow.only 1
    refine ⟨.none, execAll_replicate_succ hr (hrun.trans ?_)⟩
    rw [← countedDown_succ]
    rfl

end Sys2Proof.Machine

open Sys2Proof Sys2Proof.Machine

/-- Settles O1: the power-on state has these values. -/
theorem powerOnState : Obligations.PowerOnState := by
  unfold Obligations.PowerOnState
  refine ⟨reset_chan, rfl, rfl, fun h => ?_, rfl, rfl, rfl, rfl, rfl, rfl, rfl, rfl, rfl, rfl, fun d p => ?_,
    fun d dir => ?_, fun st off => ?_, rfl, rfl⟩
  · cases h <;> exact ⟨rfl, rfl, Latch.zero_masterFlag⟩
  · cases d <;> rfl
  · cases d <;> cases dir <;> rfl
  · cases st <;> rfl

/-- Settles O40: `Reset` leaves what `resetDma` sets, which a second `Reset` sets again; a frozen block does nothing. -/
theorem resetEffect : Obligations.ResetEffect := by
  unfold Obligations.ResetEffect
  refine ⟨fun s hs => ⟨_, exec_dmaReset hs, resetDma_chan s, rfl, rfl, fun h => ?_, rfl, rfl, rfl⟩, fun s t h => ?_⟩
  · rw [State.setResult_latch, resetDma_latch]
    exact ⟨rfl, rfl, Latch.zero_masterFlag⟩
  · cases hf : s.fault with
    | none =>
      rw [exec_dmaReset hf] at h
      cases h
      exact exec_dmaReset (s := (resetDma s).setResult .none) hf
    | some r =>
      rw [exec_frozen hf] at h
      cases h
      exact exec_frozen hf _

/-- Settles O50: each `Run` but the last lowers the count, and the last one ends the transfer. -/
theorem streamingEndsOnTime : Obligations.StreamingEndsOnTime := by
  unfold Obligations.StreamingEndsOnTime
  rintro s c N hs ho hk rfl
  have htransfers : Transfers c .streaming s := ⟨hs, ho, hk⟩
  refine ⟨fun k hlt => ?_, ?_⟩
  · obtain ⟨r, hr⟩ := execAll_runs_streaming htransfers hlt
    refine ⟨_, hr, ?_, ?_, rfl, by simp [State.countedDown]⟩
    · have hc := ho c
      rw [decide_eq_true rfl, State.eligible, Bool.and_eq_true] at hc
      rw [State.setResult_chan, countedDown_chan]
      exact hc.1
    · rw [State.setResult_chan, countedDown_count (by omega)]
  · obtain ⟨n, hn⟩ : ∃ n, max 1 (s.chan c).count.toNat = n + 1 := Nat.exists_eq_add_one.2 (by omega)
    obtain ⟨r, hr⟩ := execAll_runs_streaming htransfers (k := n) (by omega)
    have hlast : Transfers c .streaming ((s.countedDown c n).setResult r) := (htransfers.countedDown n).setResult r
    have hend : EndsNow c ((s.countedDown c n).setResult r) := .inl ⟨hlast.kind, by
      rw [State.setResult_chan, countedDown_count (by omega)]
      omega⟩
    have hrun := exec_dmaRun_of_endsNow hlast.live hlast.only hend 1
    have hzero : (((s.countedDown c n).setResult r).setResult .none).zeroCount c = (s.zeroCount c).setResult .none :=
      congrArg (State.setResult · .none) (countedDown_zeroCount s c n)
    rw [hzero] at hrun
    exact ⟨_, hn ▸ execAll_replicate_succ hr hrun, transferEnded_afterEnd c s⟩
end

section
/-! ## Chained transfers that end on time (70_reset_and_hazards.md R481, 42_dma_transfer.md R310 to R323, R330, R332) -/

namespace Sys2Proof.Machine

/-! ### `Run`s that keep a relation -/

/-- `n` `Run`s lead from `s` to `u`, and each of them keeps `R`. -/
inductive RunsKeeping (R : State → State → Prop) : Nat → State → State → Prop
  | none (s : State) : RunsKeeping R 0 s s
  | run {n : Nat} {s t u : State} : exec (.dmaRun 1) s = .next t → R s t → RunsKeeping R n t u →
      RunsKeeping R (n + 1) s u

section
variable {R : State → State → Prop} {m n : Nat} {s t u : State}

theorem RunsKeeping.trans (h : RunsKeeping R m s t) (k : RunsKeeping R n t u) : RunsKeeping R (m + n) s u := by
  induction h with
  | none s => rwa [Nat.zero_add]
  | run hrun hR _ ih =>
    rw [Nat.succ_add]
    exact .run hrun hR (ih k)

theorem RunsKeeping.execAll_eq (h : RunsKeeping R n s u) : execAll (List.replicate n (.dmaRun 1)) s = some u := by
  induction h with
  | none s => rfl
  | run hrun _ _ ih => exact (execAll_cons_next hrun _).trans ih

/-- Each state on the way is related to the first. -/
theorem RunsKeeping.reaches (hrefl : ∀ s, R s s) (htrans : ∀ {s t u}, R s t → R t u → R s u) (h : RunsKeeping R n s u)
    {k : Nat} (hk : k ≤ n) : ∃ t, execAll (List.replicate k (.dmaRun 1)) s = some t ∧ R s t := by
  induction h generalizing k with
  | none s =>
    obtain rfl := Nat.le_zero.1 hk
    exact ⟨s, rfl, hrefl s⟩
  | run hrun hR _ ih =>
    cases k with
    | zero => exact ⟨_, rfl, hrefl _⟩
    | succ k =>
      obtain ⟨t, ht, hRt⟩ := ih (Nat.le_of_succ_le_succ hk)
      exact ⟨t, (execAll_cons_next hrun _).trans ht, htrans hR hRt⟩

end

/-! ### The state between two steps of a chain -/

/-- The state with the words of a FIFO and one channel replaced, and nothing returned: all that a step of a chain
changes, memory accesses apart. -/
def State.moved (s : State) (side : FifoSide) (ws : List Word) (c : Fin 13) (v : Channel) : State :=
  ((s.setFifo side ws).setChan c v).setResult .none

section
variable (s : State) (side : FifoSide) (ws ws' : List Word) (c : Fin 13) (v v' : Channel)

@[simp] theorem State.moved_moved : (s.moved side ws c v).moved side ws' c v' = s.moved side ws' c v' := by
  have h : (s.moved side ws c v).setFifo side ws' = ((s.setFifo side ws').setChan c v).setResult .none := by
    cases side <;> rfl
  have hset := congrArg (State.setResult · .none) (setChan_setChan (s.setFifo side ws') c v v')
  rw [State.moved, h]
  exact hset

@[simp] theorem State.moved_setResult (r : Result) : (s.setResult r).moved side ws c v = s.moved side ws c v := by
  cases side <;> rfl

@[simp] theorem State.moved_chan : (s.moved side ws c v).chan c = v := by simp [State.moved]

@[simp] theorem State.moved_fifo : (s.moved side ws c v).fifo side = ws := by simp [State.moved]

@[simp] theorem State.moved_latch (h : Half) : (s.moved side ws c v).latch h = s.latch h := by simp [State.moved]

@[simp] theorem State.moved_out : (s.moved side ws c v).out = s.out := by simp [State.moved]

@[simp] theorem State.moved_params : (s.moved side ws c v).params = s.params := by simp [State.moved]

@[simp] theorem State.moved_fault : (s.moved side ws c v).fault = s.fault := by simp [State.moved]

@[simp] theorem State.moved_byteAt (st : Store) (off : Nat) :
    (s.moved side ws c v).byteAt st off = s.byteAt st off := by
  simp [State.moved]

@[simp] theorem State.moved_wordAt (st : Store) (off : Nat) :
    (s.moved side ws c v).wordAt st off = s.wordAt st off := by
  simp [State.wordAt]

theorem State.moved_space (d : Domain) : (s.moved side ws c v).space d = s.space d := by simp [State.moved]

@[simp] theorem State.moved_lookup (d : Domain) (dir : Dir) (va : Word) :
    lookup d dir va (s.moved side ws c v) = lookup d dir va s :=
  lookup_congr d (s.moved_space side ws c v d) dir va

theorem State.setFifo_fifo_self : s.setFifo side (s.fifo side) = s := by cases side <;> rfl

/-- A move that leaves its channel as it is. -/
theorem State.moved_chan_self : s.moved side ws c (s.chan c) = (s.setFifo side ws).setResult .none := by
  have h := setChan_chan_self (s.setFifo side ws) c
  rw [State.setFifo_chan] at h
  rw [State.moved, h]

end

theorem Transfers.moved {c : Fin 13} {k : Kind} {s : State} (h : Transfers c k s) (side : FifoSide) (ws : List Word)
    {v : Channel} (hv : v.control = (s.chan c).control) : Transfers c k (s.moved side ws c v) := by
  have hfifo : Transfers c k (s.setFifo side ws) := ⟨(State.setFifo_fault ..).trans h.live, fun c' =>
    ((setFifo_sameController s side ws).eligible c').trans (h.only c'), by simp [h.kind]⟩
  exact (hfifo.setChan (by simpa using hv)).setResult .none

/-! ### The addresses of a channel (42_dma_transfer.md R311, R312, R321, R322) -/

theorem and_baseMask_toNat (v : Word) : (v &&& 0x00FFFFFF).toNat = v.toNat % 2 ^ 24 := by
  rw [BitVec.toNat_and]
  exact Nat.and_two_pow_sub_one_eq_mod _ 24

theorem wordsPast_zero (b : Word) : wordsPast b 0 = b &&& 0x00FFFFFF := by
  rw [wordsPast, Nat.mul_zero, BitVec.add_zero]

theorem wordsPast_succ (b : Word) (i : Nat) : wordsPast b (i + 1) = wordsPast (b + 4) i := by
  have h : b + BitVec.ofNat 32 (4 * (i + 1)) = b + 4 + BitVec.ofNat 32 (4 * i) := by bv_omega
  rw [wordsPast, wordsPast, h]

/-- The base wraps in 24 bits at each word or once: the address is the same. -/
theorem wordsPast_zero_add_four (b : Word) : (wordsPast b 0 + 4) &&& 0x00FFFFFF = wordsPast (b + 4) 0 := by
  rw [wordsPast_zero, wordsPast_zero]
  refine BitVec.eq_of_toNat_eq ?_
  simp only [and_baseMask_toNat, BitVec.toNat_add]
  omega

/-- A channel after the data of a tag: `base` one word past them, `count` 0. -/
def Channel.past (ch : Channel) (b : Word) (n : Nat) : Channel := { ch with base := wordsPast b n, count := 0 }

/-- A channel after its tag (42_dma_transfer.md R311, R321). -/
def Channel.loaded (ch : Channel) (l : Link) (n : BitVec 16) (tag : Word) : Channel :=
  { ch with base := wordsPast l.w0 0, count := n, tag := tag, endTransfer := l.last }

/-- A channel after a tag and its data. -/
def Channel.afterLink (ch : Channel) (l : Link) (tag : Word) : Channel :=
  { ch with base := l.endBase, count := 0, tag := tag, endTransfer := l.last }

section
variable (ch : Channel) (b : Word) (n : Nat) (l : Link)

theorem Channel.advance_control : ch.advance.control = ch.control := rfl

theorem Channel.loaded_control (n : BitVec 16) (tag : Word) : (ch.loaded l n tag).control = ch.control := rfl

theorem Channel.afterLink_control (tag : Word) : (ch.afterLink l tag).control = ch.control := rfl

theorem Channel.past_advance : ch.advance.past (b + 4) n = ch.past b (n + 1) := by
  rw [Channel.past, Channel.past, wordsPast_succ]
  rfl

theorem Channel.past_loaded (n : BitVec 16) (tag : Word) :
    (ch.loaded l n tag).past l.w0 l.data.length = ch.afterLink l tag := rfl

end

theorem Channel.advance_base {ch : Channel} {b : Word} (hb : ch.base = wordsPast b 0) :
    ch.advance.base = wordsPast (b + 4) 0 := by
  rw [← wordsPast_zero_add_four, ← hb]
  rfl

theorem Channel.advance_count {ch : Channel} {n : Nat} (hn : ch.count.toNat = n + 1) : ch.advance.count.toNat = n := by
  rw [Channel.advance]
  bv_omega

theorem Channel.past_zero {ch : Channel} {b : Word} (hb : ch.base = wordsPast b 0) (hn : ch.count.toNat = 0) :
    ch.past b 0 = ch := by
  have h0 : ch.count = 0 := BitVec.eq_of_toNat_eq hn
  rw [Channel.past, ← hb, ← h0]

/-! ### Words on mapped pages -/

section
variable {a w : Word} {s t : State}

/-- The word at an address depends on the address space and the stores. -/
theorem FastWord.congr (h : FastWord a w s) (hl : ∀ va, lookup .S .read va t = lookup .S .read va s)
    (hw : ∀ st off, t.wordAt st off = s.wordAt st off) : FastWord a w t := by
  obtain ⟨ha, st, off, perm, hlookup, hword⟩ := h
  exact ⟨ha, st, off, perm, (hl a).trans hlookup, (hw st off).trans hword⟩

theorem FastWord.moved (h : FastWord a w s) (side : FifoSide) (ws : List Word) (c : Fin 13) (v : Channel) :
    FastWord a w (s.moved side ws c v) :=
  h.congr (s.moved_lookup side ws c v .S .read) (s.moved_wordAt side ws c v)

theorem FastWord.readsWord (h : FastWord a w s) (hs : s.Live) (r : Result) :
    ReadsWord a w (s.setResult r) (s.setResult (.word w)) := by
  obtain ⟨ha, st, off, perm, hlookup, hword⟩ :=
    h.congr (t := s.setResult r) (lookup_setResult .S .read · s r) fun _ _ => rfl
  obtain ⟨-, -, hread, -⟩ := fastReadsAreLittleEndian (s.setResult r) .S a st off perm hs hlookup
  exact ⟨hword ▸ hread ha, rfl, hs⟩

end

theorem LinkAt.moved {T : Word} {l : Link} {s : State} (h : LinkAt T l s) (side : FifoSide) (ws : List Word)
    (c : Fin 13) (v : Channel) : LinkAt T l (s.moved side ws c v) where
  word0 := h.word0.moved side ws c v
  word1 := h.word1.moved side ws c v
  word2 := h.word2.moved side ws c v
  word3 := h.word3.moved side ws c v
  length := h.length
  data i hi := (h.data i hi).moved side ws c v

theorem LinksAt.moved {T : Word} {ls : List Link} {s : State} (h : LinksAt T ls s) (side : FifoSide) (ws : List Word)
    (c : Fin 13) (v : Channel) : LinksAt T ls (s.moved side ws c v) := by
  induction ls generalizing T with
  | nil => trivial
  | cons l ls ih =>
    obtain ⟨hl, hls⟩ := h
    exact ⟨hl.moved side ws c v, ih hls⟩

/-- The four words of a tag, read in order. -/
theorem LinkAt.readsWords {T : Word} {l : Link} {s : State} (h : LinkAt T l s) (hs : s.Live) :
    ReadsWords T [l.w0, l.w1, l.p0, l.p1] s (s.setResult (.word l.p1)) := by
  have h8 : T + 4 + 4 = T + 8 := BitVec.add_assoc T 4 4
  have h12 : T + 4 + 4 + 4 = T + 12 := by rw [h8]; exact BitVec.add_assoc T 8 4
  exact ⟨_, h.word0.readsWord hs s.result, _, h.word1.readsWord hs _, _, h8 ▸ h.word2.readsWord hs _, _,
    h12 ▸ h.word3.readsWord hs _, rfl⟩

/-! ### An outbound chain (42_dma_transfer.md R310 to R313, R332) -/

/-- The transfer of `c` goes on, and nothing is emitted. -/
def SendsOn (c : Fin 13) (s t : State) : Prop :=
  (t.chan c).control = (s.chan c).control ∧ t.out = s.out ∧ t.latch (halfOf c) = s.latch (halfOf c)

theorem SendsOn.refl (c : Fin 13) (s : State) : SendsOn c s s := ⟨rfl, rfl, rfl⟩

theorem SendsOn.trans {c : Fin 13} {s t u : State} (h : SendsOn c s t) (k : SendsOn c t u) : SendsOn c s u := by
  obtain ⟨hcontrol, hout, hlatch⟩ := h
  obtain ⟨kcontrol, kout, klatch⟩ := k
  exact ⟨kcontrol.trans hcontrol, kout.trans hout, klatch.trans hlatch⟩

theorem SendsOn.moved {c : Fin 13} {s : State} {v : Channel} (hv : v.control = (s.chan c).control) (side : FifoSide)
    (ws : List Word) : SendsOn c s (s.moved side ws c v) := ⟨by simpa using hv, by simp, by simp⟩

theorem room_of_no_depth {s : State} (h : s.params.fifoDepth = none) (side : FifoSide) (n : Nat) : s.Room side n := by
  intro k hk
  rw [h] at hk
  cases hk

section
variable {s : State} {c : Fin 13} (hs : Transfers c .outbound s) (hdepth : s.params.fifoDepth = none)
include hs hdepth

theorem exec_dmaRun_outTag (hn : (s.chan c).count = 0) (he : (s.chan c).endTransfer = false) {l : Link}
    (hl : LinkAt (s.chan c).tag l s) : exec (.dmaRun 1) s = .next (s.moved .side0 (s.fifo .side0 ++ [l.p0, l.p1]) c
      ((s.chan c).loaded l (((l.w1 + 3) &&& 0xFFFFFFFC).setWidth 16) ((s.chan c).tag + 16))) := by
  obtain ⟨-, -, -, hfetch⟩ := outboundTagFetch s c hs.live hs.kind hn he
  have hstep := hfetch (room_of_no_depth hdepth .side0 2) _ _ _ _ _ (hl.readsWords hs.live)
  rw [hstep.2 hs.only 1, Channel.loaded, wordsPast_zero]
  rfl

theorem exec_dmaRun_outData (hn : (s.chan c).count ≠ 0) {w : Word} (hw : FastWord (s.chan c).base w s) :
    exec (.dmaRun 1) s = .next (s.moved .side0 (s.fifo .side0 ++ [w]) c (s.chan c).advance) := by
  obtain ⟨-, -, -, hfetch⟩ := outboundDataWord s c hs.live hs.kind hn
  have hstep := hfetch (room_of_no_depth hdepth .side0 1) _ w (hw.readsWord hs.live s.result)
  exact hstep.2 hs.only 1

end

/-- The steps of the data words of a tag. -/
theorem runs_outData {s : State} {c : Fin 13} (hs : Transfers c .outbound s) (hdepth : s.params.fifoDepth = none)
    (hr : s.result = .none) {b : Word} (hb : (s.chan c).base = wordsPast b 0) {ws : List Word}
    (hn : (s.chan c).count.toNat = ws.length)
    (hws : ∀ (i : Nat) (h : i < ws.length), FastWord (wordsPast b i) ws[i] s) :
    RunsKeeping (SendsOn c) ws.length s (s.moved .side0 (s.fifo .side0 ++ ws) c ((s.chan c).past b ws.length)) := by
  induction ws generalizing s b with
  | nil =>
    rw [List.append_nil, List.length_nil, Channel.past_zero hb hn, State.moved_chan_self, State.setFifo_fifo_self,
      setResult_of_eq hr]
    exact .none s
  | cons w ws ih =>
    rw [List.length_cons] at hn
    have hcount : (s.chan c).count ≠ 0 := fun h0 => by simp [h0] at hn
    have hword : FastWord (s.chan c).base w s := hb ▸ hws 0 (Nat.zero_lt_succ _)
    refine .run (exec_dmaRun_outData hs hdepth hcount hword) (.moved (Channel.advance_control _) ..) ?_
    have hrest := ih (s := s.moved .side0 (s.fifo .side0 ++ [w]) c (s.chan c).advance) (b := b + 4)
      (hs.moved _ _ (Channel.advance_control _)) (by simpa using hdepth) rfl (by simpa using Channel.advance_base hb)
      (by simpa using Channel.advance_count hn)
      fun i hi => (wordsPast_succ b i ▸ hws (i + 1) (Nat.succ_lt_succ hi)).moved ..
    rw [State.moved_moved, State.moved_fifo, State.moved_chan, Channel.past_advance, List.append_assoc] at hrest
    exact hrest

/-- The steps of one tag and its data. -/
theorem runs_outLink {s : State} {c : Fin 13} (hs : Transfers c .outbound s) (hdepth : s.params.fifoDepth = none)
    (hn : (s.chan c).count = 0) (he : (s.chan c).endTransfer = false) {l : Link} (hl : LinkAt (s.chan c).tag l s) :
    RunsKeeping (SendsOn c) (1 + l.data.length) s (s.moved .side0 (s.fifo .side0 ++ l.p0 :: l.p1 :: l.data) c
      ((s.chan c).afterLink l ((s.chan c).tag + 16))) := by
  rw [Nat.add_comm]
  refine .run (exec_dmaRun_outTag hs hdepth hn he hl) (.moved (Channel.loaded_control ..) ..) ?_
  have hdata := runs_outData (b := l.w0) (ws := l.data)
    (hs.moved .side0 (s.fifo .side0 ++ [l.p0, l.p1])
      (Channel.loaded_control _ l (((l.w1 + 3) &&& 0xFFFFFFFC).setWidth 16) ((s.chan c).tag + 16)))
    (by simpa using hdepth) rfl (by rw [State.moved_chan]; rfl)
    (by rw [State.moved_chan]; exact hl.length.symm) fun i hi => (hl.data i hi).moved ..
  simpa [Channel.past_loaded] using hdata

/-- The steps of a chain before its end. -/
theorem runs_outLinks {s : State} {c : Fin 13} {links : List Link} {final : Link} (hs : Transfers c .outbound s)
    (hdepth : s.params.fifoDepth = none) (hn : (s.chan c).count = 0) (he : (s.chan c).endTransfer = false)
    (hl : LinksAt (s.chan c).tag links s) (hends : ChainEnds links) (hfinal : links.getLast? = some final) :
    RunsKeeping (SendsOn c) (chainSteps links) s (s.moved .side0 (s.fifo .side0 ++ outWords links) c
      ((s.chan c).afterLink final ((s.chan c).tag + BitVec.ofNat 32 (16 * links.length)))) := by
  induction links generalizing s with
  | nil => cases hends
  | cons l ls ih =>
    obtain ⟨hl, hls⟩ := hl
    have hlink := runs_outLink hs hdepth hn he hl
    cases ls with
    | nil =>
      cases hfinal
      simpa [chainSteps, outWords] using hlink
    | cons l' ls =>
      obtain ⟨hlast, hends⟩ := hends
      have htag : (s.chan c).tag + 16 + BitVec.ofNat 32 (16 * (l' :: ls).length) =
          (s.chan c).tag + BitVec.ofNat 32 (16 * (l :: l' :: ls).length) := by
        simp only [List.length_cons]
        bv_omega
      have hrest := ih (s := s.moved .side0 (s.fifo .side0 ++ l.p0 :: l.p1 :: l.data) c
        ((s.chan c).afterLink l ((s.chan c).tag + 16))) (hs.moved _ _ (Channel.afterLink_control ..))
        (by simpa using hdepth) (by rw [State.moved_chan]; rfl) (by rw [State.moved_chan]; exact hlast)
        (by rw [State.moved_chan]; exact hls.moved ..) hends hfinal
      have hall := hlink.trans hrest
      rw [State.moved_moved, State.moved_fifo, State.moved_chan, List.append_assoc] at hall
      rw [← htag]
      exact hall

theorem ChainEnds.last {links : List Link} {final : Link} (h : ChainEnds links) (hfinal : links.getLast? = some final) :
    final.last = true := by
  induction links with
  | nil => cases h
  | cons l ls ih =>
    cases ls with
    | nil =>
      cases hfinal
      exact h
    | cons l' ls => exact ih h.2 hfinal

/-- The step after the last word of a chain ends the transfer. -/
theorem exists_run_end {u : State} {c : Fin 13} {k : Kind} (hu : Transfers c k u) (hk : k = .outbound ∨ k = .inbound)
    (hn : (u.chan c).count = 0) (he : (u.chan c).endTransfer = true) :
    ∃ t, exec (.dmaRun 1) u = .next t ∧ TransferEnded c u t := by
  obtain ⟨t, hstep, hended⟩ := endOfTransfer u c hu.live (.inr ⟨by rwa [hu.kind], hn, he⟩)
  rw [State.zeroCount_of_count hn] at hended
  exact ⟨t, hstep.2 hu.only 1, hended⟩

end Sys2Proof.Machine

open Sys2Proof Sys2Proof.Machine

/-- Settles O51: the steps of each tag and of its data push their words, and the step after the last word ends the
transfer. -/
theorem outboundChainEndsOnTime : Obligations.OutboundChainEndsOnTime := by
  unfold Obligations.OutboundChainEndsOnTime
  intro s c links final hs ho hk hdepth hn he hl hends hfinal
  have htransfers : Transfers c .outbound s := ⟨hs, ho, hk⟩
  have hruns := runs_outLinks htransfers hdepth hn he hl hends hfinal
  have hlast := hends.last hfinal
  obtain ⟨t, hend, hended⟩ := exists_run_end (htransfers.moved .side0 (s.fifo .side0 ++ outWords links)
    (Channel.afterLink_control (s.chan c) final ((s.chan c).tag + BitVec.ofNat 32 (16 * links.length)))) (.inl rfl)
    (by rw [State.moved_chan]; rfl) (by rw [State.moved_chan]; exact hlast)
  refine ⟨fun k hk => hruns.reaches (.refl c) .trans hk, _, t, hruns.execAll_eq,
    execAll_replicate_succ hruns.execAll_eq hend, ?_, hended⟩
  rw [Channel.afterLink, hlast]
  rfl
end

section
/-! ## Inbound chains (70_reset_and_hazards.md R481, 42_dma_transfer.md R320 to R323, R330, R332) -/

namespace Sys2Proof.Machine

/-! ### A command does not look at what was returned, nor does it revive the block -/

theorem exec_setResult {s : State} (hs : s.Live) (i : Instr) (r : Result) : exec i (s.setResult r) = exec i s := by
  have hr : (s.setResult r).Live := hs
  simp only [exec_eq, runCommand, hs, hr, State.setResult_setResult]

theorem exec_live {i : Instr} {s t : State} (h : exec i s = .next t) (ht : t.Live) : s.Live := by
  by_contra hs
  obtain ⟨r, hr⟩ := Option.ne_none_iff_exists'.1 hs
  rw [exec_frozen hr] at h
  cases h
  exact hs ht

theorem execAll_cons_some {i : Instr} {is : List Instr} {s t : State} (h : execAll (i :: is) s = some t) :
    ∃ u, exec i s = .next u ∧ execAll is u = some t := by
  rw [execAll] at h
  cases hi : exec i s with
  | next u =>
    rw [hi] at h
    exact ⟨u, rfl, h⟩
  | fault _ | refused _ =>
    rw [hi] at h
    cases h

theorem execAll_live {is : List Instr} {s t : State} (h : execAll is s = some t) (ht : t.Live) : s.Live := by
  induction is generalizing s with
  | nil =>
    cases h
    exact ht
  | cons i is ih =>
    obtain ⟨u, hu, h⟩ := execAll_cons_some h
    exact exec_live hu (ih h)

/-! ### Word writes that stay away from the controller -/

/-- What a write that does not reach the controller leaves alone. -/
structure WroteApart (s t : State) : Prop where
  keeps : Keeps s t
  noInterrupt : NoInterruptSent s t
  controller : SameController s t

theorem setResult_wroteApart (s : State) (r : Result) : WroteApart s (s.setResult r) :=
  ⟨⟨rfl, rfl, rfl, rfl, rfl, [], by simp⟩, .of_out rfl, ⟨rfl, rfl, rfl, rfl, rfl⟩⟩

theorem WroteApart.refl (s : State) : WroteApart s s := ⟨.refl s, .refl s, .refl s⟩

theorem SameController.trans {s t u : State} (h : SameController s t) (k : SameController t u) : SameController s u :=
  ⟨k.ch.trans h.ch, k.dpcr0.trans h.dpcr0, k.dpcr1.trans h.dpcr1, k.latch0.trans h.latch0, k.latch1.trans h.latch1⟩

theorem WroteApart.trans {s t u : State} (h : WroteApart s t) (k : WroteApart t u) : WroteApart s u :=
  ⟨h.keeps.trans k.keeps, h.noInterrupt.trans k.noInterrupt, h.controller.trans k.controller⟩

/-- A write through the SIF window keeps its effect when a FIFO is replaced. -/
theorem setSif_write_moved (s : State) (d : Domain) (r : SifReg) (x : Word) (side : FifoSide) (ws : List Word)
    (c : Fin 13) (v : Channel) : (s.moved side ws c v).setSif ((s.moved side ws c v).sif.write d r x) =
      (s.setSif (s.sif.write d r x)).moved side ws c v := by
  cases side <;> cases r <;> cases d <;> rfl

theorem storeLE_moved (s : State) (st : Store) (off n x : Nat) (side : FifoSide) (ws : List Word) (c : Fin 13)
    (v : Channel) : (s.moved side ws c v).storeLE st off n x = (s.storeLE st off n x).moved side ws c v := by
  induction n generalizing s off x with
  | zero => rfl
  | succ n ih =>
    have hput : (s.moved side ws c v).putByte st off (BitVec.ofNat 8 x) =
        (s.putByte st off (BitVec.ofNat 8 x)).moved side ws c v := by cases side <;> rfl
    rw [State.storeLE, hput, ih, State.storeLE]

theorem emit_moved (s : State) (e : Event) (side : FifoSide) (ws : List Word) (c : Fin 13) (v : Channel) :
    (s.moved side ws c v).emit e = (s.emit e).moved side ws c v := by
  cases side <;> rfl

theorem handlerWrite_moved {d : Domain} {h : Handler} {w : Width} {pa : Word} {x : BitVec 64} {s t : State}
    (hh : h ≠ .dma) (hw : handlerWrite d h w pa x s = .done () t) (side : FifoSide) (ws : List Word) (c : Fin 13)
    (v : Channel) : handlerWrite d h w pa x (s.moved side ws c v) = .done () (t.moved side ws c v) := by
  cases h with
  | dma => exact absurd rfl hh
  | device n =>
    rw [handlerWrite_opaque (.inl ⟨n, rfl⟩)] at hw ⊢
    cases hw
    exact congrArg (Reply.done ()) (emit_moved ..)
  | sif =>
    simp only [handlerWrite, sifHandlerWrite] at hw ⊢
    split at hw
    · split at hw
      · rename_i hw32
        cases hw
        rw [if_pos hw32]
        exact congrArg (Reply.done ()) (setSif_write_moved ..)
      · cases hw
    · cases hw
      exact congrArg (Reply.done ()) (emit_moved ..)

/-- A write that does not reach the controller does the same when a FIFO and a channel are replaced. -/
theorem memWrite_moved {d : Domain} {w : Width} {va : Word} {x : BitVec 64} {s t : State}
    (hno : ∀ pa, lookup d .write va s ≠ .handler .dma pa) (h : memWrite d w va x s = .done () t) (side : FifoSide)
    (ws : List Word) (c : Fin 13) (v : Channel) :
    memWrite d w va x (s.moved side ws c v) = .done () (t.moved side ws c v) := by
  unfold memWrite at h ⊢
  rw [State.moved_lookup]
  split at h
  · rename_i ha
    rw [if_pos ha]
    cases hl : lookup d .write va s with
    | fast st off perm =>
      rw [hl] at h
      cases perm
      · cases h
        exact congrArg (Reply.done ()) (storeLE_moved ..)
      · cases h
        exact congrArg (Reply.done ()) (emit_moved ..)
    | unmapped pa =>
      rw [hl] at h
      cases h
      exact congrArg (Reply.done ()) (emit_moved ..)
    | handler hd pa =>
      rw [hl] at h
      exact handlerWrite_moved (fun hdma => hno pa (hdma ▸ hl)) h side ws c v
  · cases h

/-- A Word write on domain S that does not reach the controller, by its lookup in `s`. -/
def ApartWrite (s : State) (i : Instr) : Prop :=
  ∃ a w, i = .writeWord .S a w ∧ ∀ pa, lookup .S .write a s ≠ .handler .dma pa

theorem ApartWrite.congr {s t : State} {i : Instr} (h : ApartWrite s i) (hst : t.space .S = s.space .S) :
    ApartWrite t i := by
  obtain ⟨a, w, rfl, hno⟩ := h
  exact ⟨a, w, rfl, fun pa => lookup_congr .S hst .write a ▸ hno pa⟩

section
variable {s t : State} {i : Instr} (hi : ApartWrite s i) (h : exec i s = .next t) (ht : t.Live)
include hi h ht

theorem ApartWrite.wroteApart : WroteApart s t := by
  obtain ⟨a, w, rfl, hno⟩ := hi
  obtain ⟨hm, -⟩ := memWrite_of_writeWord_live (exec_live h ht) h ht
  have hframe := memWrite_writeFrame .S .w32 a (w.setWidth 64) (s.setResult .none)
  have hsame := memWrite_sameController (s := s.setResult .none) hno .w32 (w.setWidth 64)
  rw [hm, Reply.state_done] at hframe hsame
  exact (setResult_wroteApart s .none).trans ⟨hframe.keeps, hframe.noInterrupt, hsame⟩

/-- The write does the same when a FIFO and a channel are replaced. -/
theorem ApartWrite.exec_moved (side : FifoSide) (ws : List Word) (c : Fin 13) (v : Channel) :
    exec i (s.moved side ws c v) = .next (t.moved side ws c v) := by
  obtain ⟨a, w, rfl, hno⟩ := hi
  have hs := exec_live h ht
  obtain ⟨hm, -⟩ := memWrite_of_writeWord_live hs h ht
  have hmoved := memWrite_moved (s := s.setResult .none) hno hm side ws c v
  rw [State.moved_setResult] at hmoved
  exact exec_write_done (w := .w32) (t := t.moved side ws c v) ((s.moved_fault ..).trans hs) rfl hmoved

end

/-- Writes in sequence that stay away from the controller, to states that stay live. -/
theorem execAll_apartWrites {is : List Instr} {s t : State} (his : ∀ i ∈ is, ApartWrite s i)
    (h : execAll is s = some t) (ht : t.Live) : WroteApart s t ∧
      ∀ side ws c v, execAll is (s.moved side ws c v) = some (t.moved side ws c v) := by
  induction is generalizing s with
  | nil =>
    cases h
    exact ⟨.refl _, fun _ _ _ _ => rfl⟩
  | cons i is ih =>
    obtain ⟨u, hu, h⟩ := execAll_cons_some h
    have hi := his i List.mem_cons_self
    have hul := execAll_live h ht
    have hwrote := hi.wroteApart hu hul
    obtain ⟨hrest, hmoved⟩ := ih (fun j hj => (his j (List.mem_cons_of_mem i hj)).congr hwrote.keeps.asS) h
    exact ⟨hwrote.trans hrest, fun side ws c v =>
      (execAll_cons_next (hi.exec_moved hu hul side ws c v) is).trans (hmoved side ws c v)⟩

theorem WroteApart.transfers {c : Fin 13} {k : Kind} {s t : State} (h : WroteApart s t) (hs : Transfers c k s) :
    Transfers c k t where
  live := h.keeps.fault.trans hs.live
  only c' := (h.controller.eligible c').trans (hs.only c')
  kind := by rw [State.kind, h.keeps.params]; exact hs.kind

theorem WroteApart.transfers_moved {c : Fin 13} {k : Kind} {s t : State} (h : WroteApart s t) (hs : Transfers c k s)
    {v : Channel} (hv : v.control = (s.chan c).control) (side : FifoSide) (ws : List Word) :
    Transfers c k (t.moved side ws c v) :=
  (h.transfers hs).moved side ws (by rwa [h.controller.chan])

/-! ### The steps of an inbound chain -/

/-- The transfer of `c` goes on, and no interrupt is sent. -/
def ReceivesOn (c : Fin 13) (s t : State) : Prop :=
  (t.chan c).control = (s.chan c).control ∧ NoInterruptSent s t ∧ t.latch (halfOf c) = s.latch (halfOf c)

theorem ReceivesOn.refl (c : Fin 13) (s : State) : ReceivesOn c s s := ⟨rfl, .refl s, rfl⟩

theorem ReceivesOn.trans {c : Fin 13} {s t u : State} (h : ReceivesOn c s t) (k : ReceivesOn c t u) :
    ReceivesOn c s u := by
  obtain ⟨hcontrol, hsent, hlatch⟩ := h
  obtain ⟨kcontrol, ksent, klatch⟩ := k
  exact ⟨kcontrol.trans hcontrol, hsent.trans ksent, klatch.trans hlatch⟩

theorem WroteApart.receivesOn {c : Fin 13} {s t : State} (h : WroteApart s t) {v : Channel}
    (hv : v.control = (s.chan c).control) (side : FifoSide) (ws : List Word) :
    ReceivesOn c s (t.moved side ws c v) :=
  ⟨by rwa [State.moved_chan], h.noInterrupt.trans (.of_out (t.moved_out ..)),
    (t.moved_latch ..).trans (h.controller.latch _)⟩

/-- The word writes of a list of words, from an address on. -/
def wordWrites (b : Word) (ws : List Word) : List Instr := ws.mapIdx fun i w => .writeWord .S (wordsPast b i) w

theorem wordWrites_cons (b w : Word) (ws : List Word) :
    wordWrites b (w :: ws) = .writeWord .S (wordsPast b 0) w :: wordWrites (b + 4) ws := by
  simp only [wordWrites, List.mapIdx_cons, wordsPast_succ]

/-- Writes at `n` words from an address on reach no register of the controller. -/
def WritesAway (b : Word) (n : Nat) (s : State) : Prop :=
  ∀ i < n, ∀ pa, lookup .S .write (wordsPast b i) s ≠ .handler .dma pa

theorem WritesAway.congr {b : Word} {n : Nat} {s t : State} (h : WritesAway b n s) (hst : t.space .S = s.space .S) :
    WritesAway b n t := fun i hi pa => lookup_congr .S hst .write _ ▸ h i hi pa

theorem WritesAway.tail {b : Word} {n : Nat} {s : State} (h : WritesAway b (n + 1) s) : WritesAway (b + 4) n s :=
  fun i hi pa => wordsPast_succ b i ▸ h (i + 1) (Nat.succ_lt_succ hi) pa

theorem WritesAway.apartWrite {b : Word} {ws : List Word} {s : State} (h : WritesAway b ws.length s) :
    ∀ i ∈ wordWrites b ws, ApartWrite s i := by
  intro i hi
  obtain ⟨j, hj, rfl⟩ := List.mem_mapIdx.1 hi
  exact ⟨_, _, rfl, h j hj⟩

section
variable {s : State} {c : Fin 13} (hs : Transfers c .inbound s)
include hs

theorem exec_dmaRun_inTag (hn : (s.chan c).count = 0) (he : (s.chan c).endTransfer = false) {l : Link}
    {rest : List Word} (hfifo : s.fifo .side1 = l.w0 :: l.w1 :: l.p0 :: l.p1 :: rest) : exec (.dmaRun 1) s =
      .next (s.moved .side1 rest c ((s.chan c).loaded l (l.w1.setWidth 16) (s.chan c).tag)) := by
  have hstep := (inboundTagFetch s c hs.live hs.kind hn he).2 _ _ _ _ _ hfifo
  rw [hstep.2 hs.only 1, Channel.loaded, wordsPast_zero]
  rfl

/-- A data step is the Word write of the popped word, then the channel's advance. -/
theorem exec_dmaRun_inData (hn : (s.chan c).count ≠ 0) {w : Word} {rest : List Word} (hfifo : s.fifo .side1 = w :: rest)
    (hno : ∀ pa, lookup .S .write (s.chan c).base s ≠ .handler .dma pa) {t : State}
    (hw : exec (.writeWord .S (s.chan c).base w) s = .next t) (ht : t.Live) :
    exec (.dmaRun 1) s = .next (t.moved .side1 rest c (s.chan c).advance) := by
  have hpopped : exec (.writeWord .S (s.chan c).base w) (s.setFifo .side1 rest) =
      .next (t.moved .side1 rest c (s.chan c)) := by
    have hlive : (s.setFifo .side1 rest).Live := (State.setFifo_fault ..).trans hs.live
    rw [← exec_setResult hlive _ .none, ← State.moved_chan_self]
    exact ApartWrite.exec_moved ⟨_, _, rfl, hno⟩ hw ht ..
  obtain ⟨-, -, hwrite⟩ := (inboundDataWord s c hs.live hs.kind hn).2 w rest hfifo
  obtain ⟨-, hrun⟩ := hwrite _ hpopped ((t.moved_fault ..).trans ht)
  have hu := hrun (.inl hno) hs.only 1
  rw [State.moved_chan] at hu
  have hset := congrArg (State.setResult · .none)
    (setChan_setChan (t.setFifo .side1 rest) c (s.chan c) (s.chan c).advance)
  exact hu.trans (congrArg Host.Outcome.next hset)

end

/-- The steps of the data words of a tag, beside the Word writes of these words. -/
theorem runs_inData {s t : State} {c : Fin 13} (hs : Transfers c .inbound s) (hr : s.result = .none) {b : Word}
    (hb : (s.chan c).base = wordsPast b 0) {ws rest : List Word} (hn : (s.chan c).count.toNat = ws.length)
    (hfifo : s.fifo .side1 = ws ++ rest) (haway : WritesAway b ws.length s) (hw : execAll (wordWrites b ws) s = some t)
    (ht : t.Live) :
    RunsKeeping (ReceivesOn c) ws.length s (t.moved .side1 rest c ((s.chan c).past b ws.length)) := by
  induction ws generalizing s t b with
  | nil =>
    obtain rfl : s = t := Option.some.inj hw
    rw [← show s.fifo .side1 = rest from hfifo, List.length_nil, Channel.past_zero hb hn, State.moved_chan_self,
      State.setFifo_fifo_self, setResult_of_eq hr]
    exact .none s
  | cons w ws ih =>
    rw [List.length_cons] at hn
    have hcount : (s.chan c).count ≠ 0 := fun h0 => by simp [h0] at hn
    have hapart := haway.apartWrite
    rw [wordWrites_cons] at hw hapart
    obtain ⟨u, hu, hrest⟩ := execAll_cons_some hw
    have hul := execAll_live hrest ht
    have hwrote := (hapart _ List.mem_cons_self).wroteApart hu hul
    have haway' : WritesAway (b + 4) ws.length u := haway.tail.congr hwrote.keeps.asS
    obtain ⟨-, hmoved⟩ := execAll_apartWrites haway'.apartWrite hrest ht
    have hfirst := exec_dmaRun_inData hs hcount hfifo (hb ▸ haway 0 (Nat.zero_lt_succ _)) (hb ▸ hu) hul
    refine .run hfirst (hwrote.receivesOn (Channel.advance_control _) ..) ?_
    have hall := ih (s := u.moved .side1 (ws ++ rest) c (s.chan c).advance) (b := b + 4)
      (hwrote.transfers_moved hs (Channel.advance_control _) ..) rfl
      (by rw [State.moved_chan]; exact Channel.advance_base hb)
      (by rw [State.moved_chan]; exact Channel.advance_count hn) (State.moved_fifo ..)
      (haway'.congr (State.moved_space ..)) (hmoved ..) ((t.moved_fault ..).trans ht)
    rwa [State.moved_moved, State.moved_chan, Channel.past_advance] at hall

/-- The steps of one tag and its data. -/
theorem runs_inLink {s t : State} {c : Fin 13} (hs : Transfers c .inbound s) (hn : (s.chan c).count = 0)
    (he : (s.chan c).endTransfer = false) {l : Link} {rest : List Word}
    (hfifo : s.fifo .side1 = l.w0 :: l.w1 :: l.p0 :: l.p1 :: (l.data ++ rest)) (hlength : l.data.length = l.inCount)
    (haway : WritesAway l.w0 l.data.length s) (hw : execAll l.writes s = some t) (ht : t.Live) :
    RunsKeeping (ReceivesOn c) (1 + l.data.length) s
      (t.moved .side1 rest c ((s.chan c).afterLink l (s.chan c).tag)) := by
  rw [Nat.add_comm]
  refine .run (exec_dmaRun_inTag hs hn he hfifo) ((WroteApart.refl s).receivesOn (Channel.loaded_control ..) ..) ?_
  obtain ⟨-, hmoved⟩ := execAll_apartWrites haway.apartWrite hw ht
  have hdata := runs_inData (b := l.w0) (ws := l.data) (rest := rest)
    (hs.moved .side1 (l.data ++ rest) (Channel.loaded_control _ l (l.w1.setWidth 16) (s.chan c).tag)) rfl
    (by rw [State.moved_chan]; rfl) (by rw [State.moved_chan]; exact hlength.symm) (State.moved_fifo ..)
    (haway.congr (State.moved_space ..)) (hmoved ..) ((t.moved_fault ..).trans ht)
  rwa [State.moved_moved, State.moved_chan, Channel.past_loaded] at hdata

theorem execAll_append_some {is js : List Instr} {s t : State} (h : execAll (is ++ js) s = some t) :
    ∃ u, execAll is s = some u ∧ execAll js u = some t := by
  rwa [execAll_append, Option.bind_eq_some_iff] at h

theorem apartWrite_of_mem_inWrites {s : State} {links : List Link} (h : ∀ l ∈ links, WritesAway l.w0 l.data.length s) :
    ∀ i ∈ inWrites links, ApartWrite s i := by
  intro i hi
  obtain ⟨l, hl, hil⟩ := List.mem_flatMap.1 hi
  exact (h l hl).apartWrite i hil

/-- The steps of an inbound chain before its end, beside the Word writes of its data. -/
theorem runs_inLinks {s t : State} {c : Fin 13} {links : List Link} {final : Link} {rest : List Word}
    (hs : Transfers c .inbound s) (hn : (s.chan c).count = 0) (he : (s.chan c).endTransfer = false)
    (hfifo : s.fifo .side1 = inWords links ++ rest) (hends : ChainEnds links) (hfinal : links.getLast? = some final)
    (hlength : ∀ l ∈ links, l.data.length = l.inCount) (haway : ∀ l ∈ links, WritesAway l.w0 l.data.length s)
    (hw : execAll (inWrites links) s = some t) (ht : t.Live) :
    RunsKeeping (ReceivesOn c) (chainSteps links) s
      (t.moved .side1 rest c ((s.chan c).afterLink final (s.chan c).tag)) := by
  induction links generalizing s t with
  | nil => cases hends
  | cons l ls ih =>
    obtain ⟨hl, hls⟩ := List.forall_mem_cons.1 haway
    obtain ⟨hlen, hlens⟩ := List.forall_mem_cons.1 hlength
    obtain ⟨u, hu, hrest⟩ := execAll_append_some hw
    have hul := execAll_live hrest ht
    have hfifo' : s.fifo .side1 = l.w0 :: l.w1 :: l.p0 :: l.p1 :: (l.data ++ (inWords ls ++ rest)) := by
      rw [hfifo]
      simp [inWords]
    have hlink := runs_inLink hs hn he hfifo' hlen hl hu hul
    cases ls with
    | nil =>
      cases hfinal
      cases hrest
      simpa [chainSteps, inWords] using hlink
    | cons l' ls =>
      obtain ⟨hlast, hends⟩ := hends
      obtain ⟨hwrote, -⟩ := execAll_apartWrites hl.apartWrite hu hul
      have hls' (k : Link) (hk : k ∈ l' :: ls) : WritesAway k.w0 k.data.length u := (hls k hk).congr hwrote.keeps.asS
      obtain ⟨-, hmoved⟩ := execAll_apartWrites (apartWrite_of_mem_inWrites hls') hrest ht
      have hchain := ih (hwrote.transfers_moved hs (Channel.afterLink_control _ l (s.chan c).tag) ..)
        (by rw [State.moved_chan]; rfl) (by rw [State.moved_chan]; exact hlast) (State.moved_fifo ..) hends hfinal hlens
        (fun k hk => (hls' k hk).congr (State.moved_space ..)) (hmoved ..) ((t.moved_fault ..).trans ht)
      have hall := hlink.trans hchain
      rwa [State.moved_moved, State.moved_chan] at hall

/-! ### Words that land in one run of a store (20_memory.md R80) -/

theorem append_bytes_eq (w : Word) :
    w.extractLsb' 24 8 ++ w.extractLsb' 16 8 ++ w.extractLsb' 8 8 ++ w.extractLsb' 0 8 = w := by
  refine BitVec.eq_of_toNat_eq ?_
  simp only [toNat_append_eq_add, BitVec.extractLsb'_toNat, Nat.shiftRight_eq_div_pow]
  omega

theorem BytesStored.wordAt {st : Store} {off : Nat} {w : Word} {s t : State}
    (h : BytesStored st off (wordBytes w) s t) : t.wordAt st off = w := by
  have hbyte (i : Nat) (hi : i < 4) : t.byteAt st (off + i) = (wordBytes w)[i] := h.stored i hi
  have h0 : t.byteAt st off = w.extractLsb' 0 8 := hbyte 0 (by decide)
  rw [State.wordAt, h0, hbyte 1 (by decide), hbyte 2 (by decide), hbyte 3 (by decide)]
  exact append_bytes_eq w

theorem MemorySameOutside.wordAt {st : Store} {off off' n : Nat} {s t : State} (h : MemorySameOutside st off n s t)
    (hout : off' + 4 ≤ off ∨ off + n ≤ off') : t.wordAt st off' = s.wordAt st off' := by
  have hbyte (i : Nat) (hi : i < 4) : t.byteAt st (off' + i) = s.byteAt st (off' + i) :=
    h st (off' + i) (.inr (by omega))
  have h0 : t.byteAt st off' = s.byteAt st off' := hbyte 0 (by decide)
  rw [State.wordAt, h0, hbyte 1 (by decide), hbyte 2 (by decide), hbyte 3 (by decide), State.wordAt]

/-- A Word write after which the block is live was aligned (20_memory.md R85). -/
theorem writeWord_aligned {a w : Word} {s t : State} (h : exec (.writeWord .S a w) s = .next t) (ht : t.Live) :
    a.toNat % 4 = 0 := by
  by_contra ha
  obtain ⟨hm, -⟩ := memWrite_of_writeWord_live (exec_live h ht) h ht
  rw [memWrite_misaligned (w := .w32) ha] at hm
  cases hm

/-- Words written in one run of a store stand there in order, and every other byte is as before. -/
theorem wordWrites_land {st : Store} {off : Nat} {b : Word} {ws : List Word} {s t : State}
    (hl : ∀ i < ws.length, lookup .S .write (wordsPast b i) s = .fast st (off + 4 * i) .rw)
    (hw : execAll (wordWrites b ws) s = some t) (ht : t.Live) :
    (∀ (i : Nat) (h : i < ws.length), t.wordAt st (off + 4 * i) = ws[i]) ∧
      MemorySameOutside st off (4 * ws.length) s t := by
  induction ws generalizing s b off with
  | nil =>
    cases hw
    exact ⟨fun i hi => absurd hi (Nat.not_lt_zero i), fun _ _ _ => rfl⟩
  | cons w ws ih =>
    rw [wordWrites_cons] at hw
    obtain ⟨u, hu, hrest⟩ := execAll_cons_some hw
    have hul := execAll_live hrest ht
    obtain ⟨u', hu', hstored⟩ := exec_writeWord_fast (exec_live hu hul) (writeWord_aligned hu hul)
      (hl 0 (Nat.zero_lt_succ _)) w
    obtain rfl : u = u' := Host.Outcome.next.inj (hu.symm.trans hu')
    obtain ⟨hwords, hout⟩ := ih (s := u) (b := b + 4) (off := off + 4) (fun i hi => by
      rw [hstored.lookup_eq, ← wordsPast_succ, hl (i + 1) (Nat.succ_lt_succ hi)]
      congr 1
      omega) hrest
    refine ⟨fun i hi => ?_, fun st' off' h => ?_⟩
    · cases i with
      | zero => exact (hout.wordAt (.inl (Nat.le_refl _))).trans hstored.wordAt
      | succ i =>
        rw [List.getElem_cons_succ, ← hwords i (Nat.lt_of_succ_lt_succ hi)]
        congr 1
        omega
    · rw [List.length_cons] at h
      rw [hout st' off' (h.imp_right (by omega)), hstored.outside st' off' (h.imp_right (Or.imp_right ?_))]
      intro hge
      exact Nat.le_trans (Nat.add_le_add_left (by omega : 4 ≤ _) off) hge

end Sys2Proof.Machine

open Sys2Proof Sys2Proof.Machine

/-- Settles O52: each data step is the Word write of its word beside the channel's own changes, so the chain leaves what
its writes leave; the step after the last word ends the transfer. -/
theorem inboundChainLandsInMemory : Obligations.InboundChainLandsInMemory := by
  unfold Obligations.InboundChainLandsInMemory
  intro s v c links final rest hs ho hk hn he hfifo hends hfinal hlength haway hw hv
  have htransfers : Transfers c .inbound s := ⟨hs, ho, hk⟩
  have haway' (l : Link) (hl : l ∈ links) : WritesAway l.w0 l.data.length s := fun i hi pa => haway l hl i pa hi
  obtain ⟨hwrote, -⟩ := execAll_apartWrites (apartWrite_of_mem_inWrites haway') hw hv
  have hruns := runs_inLinks htransfers hn he hfifo hends hfinal hlength haway' hw hv
  have hlast := hends.last hfinal
  obtain ⟨t, hend, hended⟩ := exists_run_end (hwrote.transfers_moved htransfers
    (Channel.afterLink_control _ final (s.chan c).tag) .side1 rest) (.inr rfl)
    (by rw [State.moved_chan]; rfl) (by rw [State.moved_chan]; exact hlast)
  refine ⟨fun k hk => hruns.reaches (.refl c) .trans hk, _, t, hruns.execAll_eq,
    execAll_replicate_succ hruns.execAll_eq hend, ?_, hended, fun st off hsingle hl => ?_⟩
  · rw [Channel.afterLink, hlast, ← hwrote.controller.ch]
    rfl
  · subst hsingle
    rw [inWrites, List.flatMap_singleton] at hw
    obtain ⟨hwords, hout⟩ := wordWrites_land hl hw hv
    exact ⟨fun i hi => (v.moved_wordAt ..).trans (hwords i hi),
      fun st' off' h => (v.moved_byteAt ..).trans (hout st' off' h)⟩
end
